-- ==== Sys2Proof/Word.lean ====
section
/-! DEFINITION. The two word types of the machine (R6): a memory location and an accumulator hold a byte, an
address and an index register hold a 16-bit value. -/

namespace Sys2Proof

/-- 8 bits: a memory location, an accumulator, a control register (R6). -/
abbrev Byte := BitVec 8

/-- 16 bits: an address, IX, IY, SP, PC, D (R6). -/
abbrev Word := BitVec 16

end Sys2Proof
end

