-- ==== Sys2Proof/Machine/Bits.lean ====
section
/-! DEFINITION. Bit fields, byte order and extension (R12, R13). -/

namespace Sys2Proof.Machine

/-- `hi(v)`, bits 15 to 8 (R12). -/
def hi (w : Word) : Byte := w.extractLsb' 8 8

/-- `lo(v)`, bits 7 to 0 (R12). -/
def lo (w : Word) : Byte := w.extractLsb' 0 8

/-- `h : l`, the left side more significant (R12, R130). -/
def join (h l : Byte) : Word := h ++ l

/-- `zext_16` (R13). -/
def zext16 (b : Byte) : Word := b.setWidth 16

/-- `sext_16` (R13). -/
def sext16 (b : Byte) : Word := b.signExtend 16

/-- `v[k]` (R12). -/
def bit (b : Byte) (k : Nat) : Bool := b.getLsbD k

/-- The byte whose bits are those of `new` where `mask` is 1 and those of `old` where it is 0. -/
def merge (mask old new : Byte) : Byte := (old &&& ~~~mask) ||| (new &&& mask)

/-- The byte with bit `k` alone set where the condition holds, $00 otherwise. -/
def flagBit (k : Nat) (on : Bool) : Byte := if on then 1#8 <<< k else 0#8

/-- The two-bit field of `b` at bits k+1 and k. -/
def field2 (b : Byte) (k : Nat) : Nat := b.toNat / 2 ^ k % 4

end Sys2Proof.Machine
end

