-- ==== Sys2Proof/Config.lean ====
section
/-! DEFINITION. What one chip fixes (the part number, R2 and R7) and the free values the spec leaves open
(notes/assumptions/6.md). -/

namespace Sys2Proof

/-- The seven parts in scope (R2). -/
inductive Device where
  | mc68hc11e0
  | mc68hc11e1
  | mc68hc11e9
  | mc68hc711e9
  | mc68hc11e20
  | mc68hc711e20
  | mc68hc811e2
deriving DecidableEq, Repr

/-- A byte the spec calls "any value": the argument is the number of free values drawn before it. -/
opaque Config.freeByte : Nat → Byte

/-- A 16-bit value the spec calls "any value". -/
opaque Config.freeWord : Nat → Word

/-- A bit the spec calls "any value", or a choice it leaves open. -/
opaque Config.freeBit : Nat → Bool

/-- A count the spec calls unpredictable. -/
opaque Config.freeNat : Nat → Nat

/-- The value of a DDRC bit that leaves its pin three-stated in full output handshake while STRA is not at its active
level: R43 and R48 can be read either way (notes/assumptions/42.md). -/
opaque Config.threeStateBit : Bool

end Sys2Proof
end

