-- ==== Sys2Proof/Machine/State.lean ====
section
/-! DEFINITION. The state of the machine (10_state.md, 20_memory.md), plain data, and its value right after reset. -/

namespace Sys2Proof.Machine

/-- Nothing: no instruction of this hardware faults (R431). SWI and the illegal opcode trap are entries the model takes
(notes/assumptions/35.md). -/
inductive Fault where
deriving DecidableEq, Repr

/-- Why the model stops. Every refusal is safe: the machine goes on in a way the spec does not give. -/
inductive Refusal where
  /-- The instruction has no meaning yet; only an arm of `exec` says so. -/
  | notModelled (mnemonic : String)
  /-- A write that sets PPROG.EELAT, PPROG.EPGM, PPROG.ELAT, EPROG.ELAT or EPROG.PGM (R82, R150, D12): raised by a
  store, on any path that stores. -/
  | programsNonVolatile
  /-- A write to TEST1 or TCNT in the special modes, or to the test bits of EPROG (R55, R85, D25, U17): raised by a
  store. -/
  | usesTestFacility
  /-- A reset that finds CONFIG.NOSEC = 0 (R11, D3): raised by the reset sequence. -/
  | securedPart
deriving DecidableEq, Repr

/-- The condition code register, bit 7 to bit 0 (R27): all eight bits are implemented. -/
structure Ccr where
  s : Bool
  x : Bool
  h : Bool
  i : Bool
  n : Bool
  z : Bool
  v : Bool
  c : Bool
deriving DecidableEq, Repr

/-- What ended the stop state (R418). -/
inductive StopWake where
  /-- XIRQ with X = 0: its interrupt is taken. -/
  | xirq
  /-- IRQ with I = 0: its interrupt is taken. -/
  | irq
  /-- XIRQ with X = 1: execution resumes after STOP without an interrupt. -/
  | resume
deriving DecidableEq, Repr

/-- The CPU run state (R94). -/
inductive RunState where
  | running
  | waiting
  | stopped
  /-- The start-up delay after the stop state: E cycles left, and what ended the stop (R512). -/
  | starting (left : Nat) (wake : StopWake)
  /-- The state of TEST, which only a reset ends (R420). -/
  | testing
deriving DecidableEq, Repr

/-- The three reset vectors' causes (R490). -/
inductive ResetKind where
  | pin
  | clockMonitor
  | cop
deriving DecidableEq, Repr

/-- The CPU (R20 to R35, R94, R96). -/
structure Cpu where
  a : Byte
  b : Byte
  ix : Word
  iy : Word
  sp : Word
  pc : Word
  ccr : Ccr
  run : RunState
  /-- I was cleared by the previous instruction (R96). -/
  iCleared : Bool
deriving DecidableEq, Repr

/-- A memory: cells at strictly rising keys, none holding what an unlisted key reads as. -/
abbrev Memory := List Host.Cell

/-- The memories behind the map of R136. RAM and EEPROM are keyed by the offset from their base, so that moving them
keeps their contents; the others are keyed by the address. -/
structure Mem where
  ram : Memory
  eeprom : Memory
  rom : Memory
  bootRom : Memory
  ext : Memory
deriving DecidableEq, Repr

/-- The parallel ports and the strobe and handshake logic (R41 to R51). The port registers are the output latches. -/
structure Ports where
  porta : Byte
  pioc : Byte
  portc : Byte
  portb : Byte
  portcl : Byte
  ddrc : Byte
  portd : Byte
  ddrd : Byte
  /-- PIOC was read with STAF = 1 (R91). -/
  stafArmed : Bool
  /-- STRB is at its active level (R43). -/
  strbActive : Bool
  /-- E cycles left of a STRB pulse; 0 when STRB is not pulsing. -/
  strbPulse : Nat
deriving DecidableEq, Repr

/-- The timer, its captures and compares, and the pulse accumulator (R52 to R66). -/
structure Timer where
  oc1m : Byte
  oc1d : Byte
  tcnt : Word
  tic1 : Word
  tic2 : Word
  tic3 : Word
  toc1 : Word
  toc2 : Word
  toc3 : Word
  toc4 : Word
  ti4o5 : Word
  tctl1 : Byte
  tctl2 : Byte
  tmsk1 : Byte
  tflg1 : Byte
  tmsk2 : Byte
  tflg2 : Byte
  pactl : Byte
  pacnt : Byte
  /-- E cycles since the last count of TCNT (R461). -/
  prescale : Nat
  /-- The output-compare pin latches, bits 7 to 3 for PA7 to PA3 (R95). -/
  ocPins : Byte
deriving DecidableEq, Repr

/-- The serial peripheral interface (R67 to R69, R473). -/
structure Spi where
  spcr : Byte
  spsr : Byte
  /-- The read buffer. -/
  rx : Byte
  /-- The shift register. -/
  shift : Byte
  /-- E cycles left of the transfer the master has in progress. -/
  left : Option Nat
  /-- An external master has a transfer with this slave in progress. -/
  slaveBusy : Bool
  /-- The flags of SPSR that a read of SPSR has seen at 1 (R91). -/
  armed : Byte
deriving DecidableEq, Repr

/-- The serial communications interface (R70 to R74, R470). -/
structure Sci where
  baud : Byte
  sccr1 : Byte
  sccr2 : Byte
  scsr : Byte
  /-- The receive shift register: the character assembled last, the ninth bit on top (R95). -/
  rxShift : BitVec 9
  /-- The receive data buffer. -/
  rx : Byte
  /-- The transmit data buffer. -/
  tx : Byte
  /-- The transmit shift register, the ninth bit on top. -/
  shift : BitVec 9
  /-- E cycles left of the character in the transmit shift register. -/
  left : Option Nat
  /-- The flags of SCSR that a read of SCSR has seen at 1 (R91). -/
  armed : Byte
  /-- RxD has been active since it last became idle (R73). -/
  lineActive : Bool
deriving DecidableEq, Repr

/-- The A/D converter (R75, R76, R475). -/
structure Adc where
  adctl : Byte
  adr1 : Byte
  adr2 : Byte
  adr3 : Byte
  adr4 : Byte
  /-- The result the running sequence fills next, 0 for ADR1. -/
  next : Option (Fin 4)
deriving DecidableEq, Repr

/-- The system registers (R77 to R87) and the hidden state of resets, write protection, COP and IRQ (R90 to R93). -/
structure Sys where
  bprot : Byte
  eprog : Byte
  option : Byte
  pprog : Byte
  hprio : Byte
  init : Byte
  test1 : Byte
  config : Byte
  /-- E cycles since reset (R92). -/
  cycles : Nat
  initWritten : Bool
  prWritten : Bool
  optionWritten : Bool
  bprotWritten : Bool
  mdaWritten : Bool
  irvWritten : Bool
  /-- $55 was written to COPRST (R93). -/
  copArmed : Bool
  /-- E cycles since the COP was last restarted (R93). -/
  copCount : Nat
  /-- A falling edge on IRQ is waiting to be taken (R90). -/
  irqLatch : Bool
  /-- The reset that the next recognition point takes (R438). -/
  pendingReset : Option ResetKind
deriving DecidableEq, Repr

/-- The register block and the devices behind it. -/
structure Io where
  ports : Ports
  timer : Timer
  spi : Spi
  sci : Sci
  adc : Adc
  sys : Sys
deriving DecidableEq, Repr

/-- The levels on the input pins, true for high. IRQ and XIRQ are active low. -/
structure Pins where
  modA : Bool
  modB : Bool
  irq : Bool
  xirq : Bool
  stra : Bool
  portA : Byte
  portC : Byte
  portD : Byte
  portE : Byte
  /-- The byte the SPI shifts in from the other side next. -/
  miso : Byte
deriving DecidableEq, Repr

/-- What answers at an external address (R144: EXT_MEM "may be RAM, ROM, devices or nothing"). -/
inductive ExtKind where
  | ram
  | rom
  /-- A device or nothing: a read gives any value, a write does nothing that the chip can see. -/
  | device
deriving DecidableEq, Repr

/-- A range of external addresses. -/
structure ExtRegion where
  base : Nat
  size : Nat
  kind : ExtKind
deriving DecidableEq, Repr

/-- The parameters of the chip and its board (R7 to R11). -/
structure Params where
  device : Device
  /-- The security mask option was specified (R11). -/
  securityMask : Bool
  /-- The non-volatile cells of CONFIG (R9). -/
  configNv : Byte
  /-- The external memory; an address in no region has nothing. The first region that holds an address answers. -/
  extMap : List ExtRegion
  /-- The crystal frequency in Hz (R10). -/
  xtal : Nat
deriving DecidableEq, Repr

/-- A move of the outside world (00_scope.md section 6, D27). -/
inductive Input where
  /-- RESET is driven low and released, or power comes on (R490). -/
  | resetPin
  /-- The clock is too slow or stopped (R468). -/
  | clockFailure
  /-- The levels of MODA and MODB (R495). -/
  | modePins (modA modB : Bool)
  | irqPin (level : Bool)
  | xirqPin (level : Bool)
  | straPin (level : Bool)
  /-- The levels the outside puts on port A: captures and pulse accumulator edges follow from the change. -/
  | portA (levels : Byte)
  | portC (levels : Byte)
  /-- The levels on port D: a falling PD5 is SS pulled low. -/
  | portD (levels : Byte)
  | portE (levels : Byte)
  /-- RxD delivers a character, bit 8 its ninth bit, with noise (NF) or a missing stop bit (FE). -/
  | sciCharacter (data : BitVec 9) (noise framing : Bool)
  /-- RxD is idle. -/
  | sciIdleLine
  /-- The transmit shifter is ready to take a character or a break. -/
  | sciShifterReady
  /-- The byte the other side of the SPI will send in the next transfer of this master. -/
  | spiIncoming (data : Byte)
  /-- An external SPI master starts a transfer with this slave. -/
  | spiSlaveStart
  /-- An external SPI master completes the transfer with this slave that is in progress. -/
  | spiClocked (data : Byte)
  /-- The A/D converter finishes one conversion. -/
  | adcResult (data : Byte)
deriving DecidableEq, Repr

/-- The whole machine. -/
structure State where
  cpu : Cpu
  mem : Mem
  io : Io
  pins : Pins
  params : Params
  /-- The outside world's moves still to come, one list for each moment it may move at: the start of a step, after each
  fetched byte, and between two data accesses of an instruction (R155, notes/assumptions/8.md). -/
  inputs : List (List Input)
  /-- How many free values have been drawn (notes/assumptions/6.md). -/
  draws : Nat
deriving DecidableEq, Repr

/-- The outcome of an instruction or of an access that may be refused. -/
abbrev Result := Host.Outcome State Fault Refusal

/-- The machine right after the reset that follows power-on: MC68HC11E9, expanded mode (notes/assumptions/2.md). The
values the spec gives are those of R492 to R496; the others are zero (notes/assumptions/4.md, 5.md). PC is the content of
the reset vector in a memory that lists nothing (notes/assumptions/7.md). -/
def State.reset : State where
  cpu :=
    { a := 0, b := 0, ix := 0, iy := 0, sp := 0, pc := 0, run := .running, iCleared := false
      ccr := { s := true, x := true, h := false, i := true, n := false, z := false, v := false, c := false } }
  mem := { ram := [], eeprom := [], rom := [], bootRom := [], ext := [] }
  io :=
    { ports :=
        { porta := 0, pioc := 0x03, portc := 0, portb := 0, portcl := 0, ddrc := 0, portd := 0, ddrd := 0
          stafArmed := false, strbActive := false, strbPulse := 0 }
      timer :=
        { oc1m := 0, oc1d := 0, tcnt := 0, tic1 := 0, tic2 := 0, tic3 := 0
          toc1 := 0xFFFF, toc2 := 0xFFFF, toc3 := 0xFFFF, toc4 := 0xFFFF, ti4o5 := 0xFFFF
          tctl1 := 0, tctl2 := 0, tmsk1 := 0, tflg1 := 0, tmsk2 := 0, tflg2 := 0, pactl := 0, pacnt := 0
          prescale := 0, ocPins := 0 }
      spi := { spcr := 0x04, spsr := 0, rx := 0, shift := 0, left := none, slaveBusy := false, armed := 0 }
      sci :=
        { baud := 0, sccr1 := 0, sccr2 := 0, scsr := 0xC0, rxShift := 0, rx := 0, tx := 0, shift := 0, left := none, armed := 0
          lineActive := false }
      adc := { adctl := 0, adr1 := 0, adr2 := 0, adr3 := 0, adr4 := 0, next := none }
      sys :=
        { bprot := 0x1F, eprog := 0, option := 0x10, pprog := 0, hprio := 0x26, init := 0x01, test1 := 0
          config := 0x0C, cycles := 0, initWritten := false, prWritten := false, optionWritten := false
          bprotWritten := false, mdaWritten := false, irvWritten := false, copArmed := false, copCount := 0
          irqLatch := false, pendingReset := none } }
  pins :=
    { modA := true, modB := true, irq := true, xirq := true, stra := false, portA := 0, portC := 0, portD := 0
      portE := 0, miso := 0 }
  params :=
    { device := .mc68hc11e9, securityMask := false, configNv := 0x0C, extMap := [⟨0, 65536, .ram⟩], xtal := 8000000 }
  inputs := []
  draws := 0

end Sys2Proof.Machine
end

