-- ==== Sys2Proof/Machine/Registers.lean ====
section
/-! DEFINITION. The named operations on the CPU registers, and the fields of the registers the map, the vectors and the
write rules depend on. -/

namespace Sys2Proof.Machine

def State.setA (s : State) (v : Byte) : State := { s with cpu := { s.cpu with a := v } }
def State.setB (s : State) (v : Byte) : State := { s with cpu := { s.cpu with b := v } }
def State.setIx (s : State) (v : Word) : State := { s with cpu := { s.cpu with ix := v } }
def State.setIy (s : State) (v : Word) : State := { s with cpu := { s.cpu with iy := v } }
def State.setSp (s : State) (v : Word) : State := { s with cpu := { s.cpu with sp := v } }
def State.setPc (s : State) (v : Word) : State := { s with cpu := { s.cpu with pc := v } }
def State.setCcr (s : State) (v : Ccr) : State := { s with cpu := { s.cpu with ccr := v } }
def State.setRun (s : State) (v : RunState) : State := { s with cpu := { s.cpu with run := v } }
def State.setICleared (s : State) (v : Bool) : State := { s with cpu := { s.cpu with iCleared := v } }

/-- Reading D is A:B (R14, R22). -/
def State.d (s : State) : Word := join s.cpu.a s.cpu.b

/-- Writing D writes both halves (R14, R22). -/
def State.setD (s : State) (v : Word) : State := (s.setA (hi v)).setB (lo v)

/-- The accumulator an 8-bit instruction works on (R20). -/
inductive Acc where
  | a
  | b
deriving DecidableEq, Repr

def State.acc (s : State) : Acc → Byte
  | .a => s.cpu.a
  | .b => s.cpu.b

def State.setAcc (s : State) : Acc → Byte → State
  | .a, v => s.setA v
  | .b, v => s.setB v

def State.setTimer (s : State) (t : Timer) : State := { s with io := { s.io with timer := t } }
def State.setPorts (s : State) (p : Ports) : State := { s with io := { s.io with ports := p } }
def State.setSpi (s : State) (p : Spi) : State := { s with io := { s.io with spi := p } }
def State.setSci (s : State) (p : Sci) : State := { s with io := { s.io with sci := p } }
def State.setAdc (s : State) (p : Adc) : State := { s with io := { s.io with adc := p } }
def State.setSys (s : State) (p : Sys) : State := { s with io := { s.io with sys := p } }
def State.setPins (s : State) (p : Pins) : State := { s with pins := p }
def State.setMem (s : State) (m : Mem) : State := { s with mem := m }

/-- The state after `n` more free values have been drawn. -/
def State.drawn (s : State) (n : Nat) : State := { s with draws := s.draws + n }

/-- HPRIO.RBOOT (R83). -/
def State.rboot (s : State) : Bool := bit s.io.sys.hprio 7

/-- HPRIO.SMOD: 1 in the special modes (R83, R455). -/
def State.smod (s : State) : Bool := bit s.io.sys.hprio 6

/-- HPRIO.MDA: 1 in the modes with an external bus (R83, R456). -/
def State.mda (s : State) : Bool := bit s.io.sys.hprio 5

/-- HPRIO.PSEL (R450). -/
def State.psel (s : State) : Nat := s.io.sys.hprio.toNat % 16

/-- The COP and the clock monitor cannot reset the chip: TEST1.DISR, possible only with SMOD = 1 (R85, R467, R468). -/
def State.resetsDisabled (s : State) : Bool := s.smod && bit s.io.sys.test1 3

/-- `vector_base` (R433). -/
def State.vectorBase (s : State) : Word := if s.smod then 0xBF00 else 0xFF00

/-- CCR as a byte, S in bit 7 to C in bit 0 (R27). -/
def Ccr.toByte (c : Ccr) : Byte :=
  flagBit 7 c.s ||| flagBit 6 c.x ||| flagBit 5 c.h ||| flagBit 4 c.i ||| flagBit 3 c.n ||| flagBit 2 c.z |||
    flagBit 1 c.v ||| flagBit 0 c.c

/-- TAP and RTI: every bit is loaded but X, which can be cleared and cannot become set (R34). -/
def Ccr.load (c : Ccr) (v : Byte) : Ccr where
  s := bit v 7
  x := c.x && bit v 6
  h := bit v 5
  i := bit v 4
  n := bit v 3
  z := bit v 2
  v := bit v 1
  c := bit v 0

/-- The reset that is due, the higher vector first when two are (R439). -/
def State.raiseReset (s : State) (k : ResetKind) : State :=
  let due := match s.io.sys.pendingReset, k with
    | none, k => k
    | some .pin, _ => .pin
    | some .clockMonitor, .pin => .pin
    | some .clockMonitor, _ => .clockMonitor
    | some .cop, k => k
  s.setSys { s.io.sys with pendingReset := some due }

end Sys2Proof.Machine
end

