-- ==== Sys2Proof/Machine/Map.lean ====
section
/-! DEFINITION. Which resource answers at an address (20_memory.md, R136 to R149). -/

namespace Sys2Proof.Machine

/-- The bytes of RAM (R2, R137). -/
def ramSize : Device → Nat
  | .mc68hc11e0 => 512
  | .mc68hc11e1 => 512
  | .mc68hc11e9 => 512
  | .mc68hc711e9 => 512
  | .mc68hc11e20 => 768
  | .mc68hc711e20 => 768
  | .mc68hc811e2 => 256

/-- The two parts with 20 Kbytes of ROM or EPROM. -/
def isE20 : Device → Bool
  | .mc68hc11e0 => false
  | .mc68hc11e1 => false
  | .mc68hc11e9 => false
  | .mc68hc711e9 => false
  | .mc68hc11e20 => true
  | .mc68hc711e20 => true
  | .mc68hc811e2 => false

/-- The first address of EEPROM and its size, none on the MC68HC11E0 (R139). On the MC68HC811E2 the top four address bits
are CONFIG.EE (R87). -/
def eepromRange (d : Device) (config : Byte) : Option (Nat × Nat) :=
  match d with
  | .mc68hc11e0 => none
  | .mc68hc11e1 => some (0xB600, 512)
  | .mc68hc11e9 => some (0xB600, 512)
  | .mc68hc711e9 => some (0xB600, 512)
  | .mc68hc11e20 => some (0xB600, 512)
  | .mc68hc711e20 => some (0xB600, 512)
  | .mc68hc811e2 => some (config.toNat / 16 * 4096 + 0x800, 2048)

/-- The first address of the bootstrap ROM, which ends at $BFFF (R141). -/
def bootRomBase (d : Device) : Nat := if isE20 d then 0xBE00 else 0xBF00

/-- What stands at an address of the ROM range while CONFIG.ROMON = 1 (R140). -/
inductive RomUse where
  | rom
  /-- The disabled array of the MC68HC11E0 and E1: any value is read (R505, notes/assumptions/15.md). -/
  | disabled
  | none
deriving DecidableEq, Repr

def romUse (d : Device) (n : Nat) : RomUse :=
  match d with
  | .mc68hc11e0 => if 0xD000 ≤ n then .disabled else .none
  | .mc68hc11e1 => if 0xD000 ≤ n then .disabled else .none
  | .mc68hc11e9 => if 0xD000 ≤ n then .rom else .none
  | .mc68hc711e9 => if 0xD000 ≤ n then .rom else .none
  | .mc68hc11e20 => if (0x9000 ≤ n && n < 0xB000) || 0xD000 ≤ n then .rom else .none
  | .mc68hc711e20 => if (0x9000 ≤ n && n < 0xB000) || 0xD000 ≤ n then .rom else .none
  | .mc68hc811e2 => .none

/-- The resource that answers at an address. -/
inductive Region where
  /-- The register block, by the offset from its base. -/
  | register (off : Nat)
  /-- Internal RAM, by the offset from its base. -/
  | ram (off : Nat)
  | bootRom (addr : Nat)
  /-- EEPROM, by the offset from its base. -/
  | eeprom (off : Nat)
  | rom (addr : Nat)
  /-- External memory. -/
  | ext (addr : Nat) (kind : ExtKind)
  /-- Nothing: a read gives any value, a write has no effect (R144, R505). -/
  | nothing
deriving DecidableEq, Repr

/-- The kind of an external address: the first region that holds it. -/
def extKind (rs : List ExtRegion) (n : Nat) : ExtKind :=
  match rs.find? fun r => r.base ≤ n && n < r.base + r.size with
  | some r => r.kind
  | none => .device

/-- The bootstrap ROM is in the map: RBOOT, "Valid only when SMOD is set to 1" (R83, R141, notes/assumptions/14.md). -/
def State.bootRomOn (s : State) : Bool := s.rboot && s.smod

/-- Map resolution: the first that matches wins (R136). -/
def resolve (s : State) (addr : Word) : Region :=
  let n := addr.toNat
  let page := n / 4096
  let off := n % 4096
  if page = s.io.sys.init.toNat % 16 ∧ off < 64 then .register off
  else if page = s.io.sys.init.toNat / 16 ∧ off < ramSize s.params.device then .ram off
  else if s.bootRomOn ∧ bootRomBase s.params.device ≤ n ∧ n < 0xC000 then .bootRom n
  else
    match eepromRange s.params.device s.io.sys.config with
    | some (base, size) =>
      if bit s.io.sys.config 0 ∧ base ≤ n ∧ n < base + size then .eeprom (n - base) else resolveRom s n
    | none => resolveRom s n
where
  /-- ROM or EPROM, then the external bus, then nothing (R136 items 5 and 6). -/
  resolveRom (s : State) (n : Nat) : Region :=
    match (if bit s.io.sys.config 1 then romUse s.params.device n else .none) with
    | .rom => .rom n
    | .disabled => .nothing
    | .none => if s.mda then .ext n (extKind s.params.extMap n) else .nothing

end Sys2Proof.Machine
end

