-- ==== Sys2Proof/Machine/Timing.lean ====
section
/-! DEFINITION. The rates of the timer, the real-time interrupt, the pulse accumulator, the COP, the SPI and the SCI, in
E cycles (60_exceptions.md, R460 to R473). -/

namespace Sys2Proof.Machine

/-- E, in Hz (R10). -/
def eClockHz (p : Params) : Nat := p.xtal / 4

/-- E cycles for one count of TCNT, from TMSK2.PR (R63, R460). -/
def timerPrescaler (tmsk2 : Byte) : Nat :=
  match field2 tmsk2 0 with
  | 0 => 1
  | 1 => 4
  | 2 => 8
  | _ => 16

/-- E cycles of a real-time interrupt period, from PACTL.RTR (R65, R465). -/
def rtiPeriod (pactl : Byte) : Nat := 2 ^ (13 + field2 pactl 0)

/-- The nominal COP timeout, from OPTION.CR (R80, R467). -/
def copTimeout (option : Byte) : Nat := 2 ^ (15 + 2 * field2 option 0)

/-- The COP's tolerance: one E/2^15 period (R467). -/
def copTolerance : Nat := 2 ^ 15

/-- E cycles of an SPI transfer: eight SCK cycles at the rate of SPCR.SPR (R67, R473). -/
def spiTransferCycles (spcr : Byte) : Nat :=
  match field2 spcr 0 with
  | 0 => 16
  | 1 => 32
  | 2 => 128
  | _ => 256

/-- The divisor of BAUD.SCP, none where "the results are unpredictable" (R70, R472). -/
def sciPrescaler (baud : Byte) : Option Nat :=
  match bit baud 6, field2 baud 4 with
  | false, 0 => some 1
  | false, 1 => some 3
  | false, 2 => some 4
  | false, _ => some 13
  | true, 0 => some 39
  | true, _ => none

/-- E cycles of one SCI bit, BAUD.SCR dividing the prescaler's output (R70, R472). An unpredictable rate is a free
value. -/
def sciBitCycles (baud : Byte) (draws : Nat) : Nat :=
  match sciPrescaler baud with
  | some p => 16 * p * 2 ^ (baud.toNat % 8)
  | none => Config.freeNat draws

/-- Bits of an SCI character: start, 8 or 9 data bits, stop (R71, R470). -/
def sciCharacterBits (sccr1 : Byte) : Nat := if bit sccr1 4 then 11 else 10

/-- The SCI bit rate in bits per second, rounded down (R472). -/
def sciBitRate (p : Params) (baud : Byte) (draws : Nat) : Nat := eClockHz p / sciBitCycles baud draws

/-- A write-protected register can still be written: special modes at any time, normal modes once in the first 64 cycles
(R500). `cycles` is the count at the start of the storing instruction (notes/assumptions/9.md). -/
def State.protectedOpen (s : State) (written : Bool) : Bool := s.smod || (s.io.sys.cycles < 64 && !written)

/-- The write-once latch after a write: any write in the first 64 cycles sets it (R500). -/
def State.latchAfter (s : State) (written : Bool) : Bool := written || s.io.sys.cycles < 64

end Sys2Proof.Machine
end

