-- ==== Sys2Proof/Machine/Ports.lean ====
section
/-! DEFINITION. The parallel ports and the strobe and handshake logic (R41 to R51, R476). -/

namespace Sys2Proof.Machine

/-- The pins of port A that are outputs: PA6 to PA4 always, PA7 by DDRA7, PA3 by DDRA3 or when an output compare function
controls it (R41, R65). -/
def portAOutputs (t : Timer) : Byte :=
  let pa3 := bit t.pactl 3 || bit t.oc1m 3 || (!bit t.pactl 2 && (bit t.tctl1 1 || bit t.tctl1 0))
  0x70 ||| flagBit 7 (bit t.pactl 7) ||| flagBit 3 pa3

/-- The pins of port A that the timer drives in place of the latch: those of OC1M, and PA6 to PA3 where OMx:OLx is not 00
(R53, R59). -/
def portATimerPins (t : Timer) : Byte :=
  t.oc1m ||| flagBit 6 (bit t.tctl1 7 || bit t.tctl1 6) ||| flagBit 5 (bit t.tctl1 5 || bit t.tctl1 4) |||
    flagBit 4 (bit t.tctl1 3 || bit t.tctl1 2) |||
    flagBit 3 (!bit t.pactl 2 && (bit t.tctl1 1 || bit t.tctl1 0))

/-- The levels the chip drives on its port A outputs: the timer's latch on a pin under its control, the port's latch on
another (R41, R53, R59, R462, notes/assumptions/20.md). -/
def portADriven (s : State) : Byte := merge (portATimerPins s.io.timer) s.io.ports.porta s.io.timer.ocPins

/-- A read of PORTA: the level of an input pin, the last value written to an output bit (R41, R476,
notes/assumptions/20.md). -/
def readPortA (s : State) : Byte := merge (portAOutputs s.io.timer) s.pins.portA s.io.ports.porta

/-- Full output handshake: HNDS = 1 and OIN = 1 (R43). -/
def outputHandshake (pioc : Byte) : Bool := bit pioc 4 && bit pioc 3

/-- STRA is at its active level, the one opposite to the edge that EGA selects (R43, notes/assumptions/23.md). -/
def straActive (s : State) : Bool := s.pins.stra != bit s.io.ports.pioc 1

/-- The pins of port C that are outputs: those of DDRC; in full output handshake all of them while STRA is active, and
else those that DDRC does not leave three-stated, whichever of its two values does that (R43, R48,
notes/assumptions/23.md, 42.md). -/
def portCOutputs (s : State) : Byte :=
  let p := s.io.ports
  if outputHandshake p.pioc then
    if straActive s then 0xFF else if Config.threeStateBit then ~~~p.ddrc else p.ddrc
  else p.ddrc

/-- The levels on the port C pins outside the modes with an external bus: the outside's on inputs, the PORTC latch's on
outputs, in full output handshake too, and whatever CWOM is (R43, R44, R476, notes/assumptions/39.md, 45.md). -/
def portCLevels (s : State) : Byte := merge (portCOutputs s) s.pins.portC s.io.ports.portc

/-- A read of PORTC: the latch on output pins, the level on input pins. In the modes with an external bus the pins carry
the bus, whose level is a free value (R44, R476, notes/assumptions/22.md). -/
def readPortC (s : State) : Byte × State :=
  if s.mda then (merge s.io.ports.ddrc (Config.freeByte s.draws) s.io.ports.portc, s.drawn 1)
  else (portCLevels s, s)

/-- The pins of port D that are inputs whatever DDRD says: RxD while the receiver is enabled, and the SPI's inputs while
it is on (R476, notes/assumptions/22.md). -/
def portDInputs (s : State) : Byte :=
  flagBit 0 (bit s.io.sci.sccr2 2) |||
    (if bit s.io.spi.spcr 6 then (if bit s.io.spi.spcr 4 then 0x04 else 0x38) else 0)

/-- The pins of port D that are outputs: those of DDRD but for the inputs above, and TxD while the transmitter is enabled
(R476, notes/assumptions/22.md). -/
def portDOutputs (s : State) : Byte :=
  (s.io.ports.ddrd &&& ~~~ portDInputs s) ||| flagBit 1 (bit s.io.sci.sccr2 3)

/-- A read of PORTD: six bits, the level of an input pin, the last value written to an output bit (R49, R476). -/
def readPortD (s : State) : Byte := merge (portDOutputs s) s.pins.portD s.io.ports.portd &&& 0x3F

/-- Handshake I/O is available, the ports not being the bus (R476). -/
def State.handshakeOn (s : State) : Bool := !s.mda

/-- STRB becomes active: for two E cycles, or in interlocked handshake until the selected edge of STRA (R43). The spec gives
the two cycles for pulsed handshake; that the pulse of simple strobed mode lasts two as well is the model's choice
(notes/assumptions/23.md). -/
def Ports.strobe (p : Ports) : Ports :=
  if bit p.pioc 4 && !bit p.pioc 2 then { p with strbActive := true, strbPulse := 0 }
  else { p with strbActive := true, strbPulse := 2 }

/-- The level of the STRB pin (R43, INVB). -/
def strbLevel (p : Ports) : Bool := p.strbActive == bit p.pioc 0

/-- The STRB pulse over `n` E cycles. -/
def advanceStrobe (n : Nat) (s : State) : State :=
  let p := s.io.ports
  if p.strbPulse = 0 then s
  else if n < p.strbPulse then s.setPorts { p with strbPulse := p.strbPulse - n }
  else s.setPorts { p with strbPulse := 0, strbActive := false }

/-- A write of PORTB: in simple strobed mode STRB pulses (R43, R45), for a time that is the model's choice
(notes/assumptions/23.md). -/
def writePortB (v : Byte) (s : State) : State :=
  let p := { s.io.ports with portb := v }
  if s.handshakeOn && !bit p.pioc 4 then s.setPorts p.strobe else s.setPorts p

/-- A read of PIOC arms STAF when it is 1 (R43, R91). -/
def readPioc (s : State) : Byte × State :=
  let p := s.io.ports
  (p.pioc, if bit p.pioc 7 then s.setPorts { p with stafArmed := true } else s)

/-- The second step of clearing STAF (R43, R91). -/
def Ports.clearStaf (p : Ports) : Ports :=
  if p.stafArmed then { p with pioc := p.pioc &&& 0x7F, stafArmed := false } else p

/-- A read of PORTCL: it clears an armed STAF but in output handshake, and acknowledges by STRB in full input handshake
(R43, R46, notes/assumptions/23.md). -/
def readPortCl (s : State) : Byte × State :=
  let p := s.io.ports
  if outputHandshake p.pioc then (p.portcl, s)
  else
    let q := p.clearStaf
    (p.portcl, if s.handshakeOn && bit p.pioc 4 then s.setPorts q.strobe else s.setPorts q)

/-- A write of PORTCL: the latch takes the byte, which the pins do not show, and in output handshake the write clears an
armed STAF and acknowledges by STRB (R43, R46, notes/assumptions/23.md, 39.md). -/
def writePortCl (v : Byte) (s : State) : State :=
  let p := { s.io.ports with portcl := v }
  if outputHandshake p.pioc then
    let q := p.clearStaf
    if s.handshakeOn then s.setPorts q.strobe else s.setPorts q
  else s.setPorts p

/-- A change of STRA: the edge selected by EGA latches port C into PORTCL, sets STAF and ends an interlocked STRB (R43,
R476). What PORTCL takes for a pin that is an output, its level, is the model's choice (notes/assumptions/39.md). -/
def straEdge (old new : Bool) (s : State) : State :=
  let p := s.io.ports
  if s.handshakeOn ∧ old ≠ new ∧ new = bit p.pioc 1 then
    let released := bit p.pioc 4 && !bit p.pioc 2
    s.setPorts { p with
      portcl := portCLevels s
      pioc := p.pioc ||| 0x80
      strbActive := if released then false else p.strbActive }
  else s

end Sys2Proof.Machine
end

