-- ==== Sys2Proof/Machine/Serial.lean ====
section
/-! DEFINITION. The SCI, the SPI and the A/D converter (60_exceptions.md, R470 to R475). -/

namespace Sys2Proof.Machine

/-! The SCI. -/

/-- TDRE is 0: the transmit buffer holds a character that the shifter has not taken (R73, R470). A byte stored to SCDR while
TDRE is not armed leaves TDRE at 1 and is never sent, which is the model's choice (R471, notes/assumptions/24.md). -/
def Sci.bufferFull (p : Sci) : Bool := !bit p.scsr 7

/-- The character in the transmit buffer, T8 on top (R71). That T8 is read when the shifter takes the character, and not at the
write of SCDR, is the model's choice (notes/assumptions/24.md). -/
def Sci.pending (p : Sci) : BitVec 9 := BitVec.ofBool (bit p.sccr1 6) ++ p.tx

/-- The transmit shifter takes the buffered character, or a break while SBK = 1 (R72, R470). It is busy for the bits of
one character at the rate of R472. That a buffered character goes before a break, that a break is as long as a character, and
that a character which was in the buffer while TE = 0 is still sent once TE is set, is the model's choice
(notes/assumptions/24.md). -/
def sciShifterReady (s : State) : State :=
  let p := s.io.sci
  let time := sciCharacterBits p.sccr1 * sciBitCycles p.baud s.draws
  let s' := if (sciPrescaler p.baud).isNone then s.drawn 1 else s
  if ¬ bit p.sccr2 3 ∨ p.left.isSome then s
  else if p.bufferFull then
    s'.setSci { p with shift := p.pending, left := some time, scsr := p.scsr ||| 0x80 }
  else if bit p.sccr2 0 then s'.setSci { p with shift := 0, left := some time }
  else s

/-- Nothing is left to send: the transmitter is off, or no character is queued and no break is asked for (R72, R73). -/
def Sci.idleNext (p : Sci) : Bool := !bit p.sccr2 3 || (!p.bufferFull && !bit p.sccr2 0)

/-- The SCI over `n` E cycles: when the character in the shifter is out and nothing is left to send, TC sets (R73, R470).
A character runs out whatever TE is by then (notes/assumptions/24.md). -/
def advanceSci (n : Nat) (s : State) : State :=
  let p := s.io.sci
  match p.left with
  | none => s
  | some k =>
    if n < k then s.setSci { p with left := some (k - n) }
    else s.setSci { p with left := none, scsr := p.scsr ||| flagBit 6 p.idleNext }

/-- A write of SCCR2: where it leaves nothing to send and the shifter is empty, as when the break generator or the
transmitter is switched off, the transmitter is idle from then on, and TC sets (R72, R73). That a character still in the
transmit buffer when TE is cleared is kept there, TDRE staying 0, is the model's choice (notes/assumptions/24.md). -/
def Sci.writeControl (p : Sci) (v : Byte) : Sci :=
  let q := { p with sccr2 := v }
  { q with scsr := q.scsr ||| flagBit 6 (q.left.isNone && !p.idleNext && q.idleNext) }

/-- An address mark: the most significant data bit of the character is set (R71). -/
def addressMark (sccr1 : Byte) (data : BitVec 9) : Bool := data.getLsbD (if bit sccr1 4 then 8 else 7)

/-- The character in the receive shift register moves to the receive buffer and sets RDRF, NF and FE; one that finds
RDRF = 1 is lost and sets OR (R73, R470), and neither NF nor FE, which is the model's reading (notes/assumptions/24.md). -/
def Sci.deliver (p : Sci) (noise framing : Bool) : Sci :=
  if bit p.scsr 5 then { p with scsr := p.scsr ||| 0x08 }
  else
    { p with
      rx := p.rxShift.setWidth 8
      sccr1 := if bit p.sccr1 4 then merge 0x80 p.sccr1 (flagBit 7 (p.rxShift.getLsbD 8)) else p.sccr1
      scsr := p.scsr ||| 0x20 ||| flagBit 2 noise ||| flagBit 1 framing }

/-- A character is assembled in the enabled receiver's shift register (R95, R470). A muted receiver (RWU = 1) sets no flag
for it until the wake-up condition of SCCR1.WAKE; that the address mark clears RWU and is itself delivered is the model's choice
(notes/assumptions/24.md). -/
def sciCharacter (data : BitVec 9) (noise framing : Bool) (s : State) : State :=
  let p := { s.io.sci with lineActive := true }
  let wakes := bit p.sccr1 3 && addressMark p.sccr1 data
  if ¬ bit p.sccr2 2 then s.setSci p
  else
    let p := { p with rxShift := data }
    if bit p.sccr2 1 ∧ ¬ wakes then s.setSci p
    else s.setSci ({ p with sccr2 := p.sccr2 &&& 0xFD }.deliver noise framing)

/-- RxD becomes idle: IDLE sets once for each activity, and not while RWU = 1, which an idle line ends when WAKE = 0
(R71, R73). That it ends RWU only after activity, and does so by clearing the bit, is the model's choice, and so is that an
idle line that the disabled receiver does not see leaves the activity for the next one (notes/assumptions/24.md). -/
def sciIdleLine (s : State) : State :=
  let p := s.io.sci
  if ¬ bit p.sccr2 2 ∨ p.lineActive = false then s
  else
    let p := { p with lineActive := false }
    if bit p.sccr2 1 then
      if bit p.sccr1 3 then s.setSci p else s.setSci { p with sccr2 := p.sccr2 &&& 0xFD }
    else s.setSci { p with scsr := p.scsr ||| 0x10 }

/-- A read of SCSR arms every flag it returns as 1 (R471). -/
def Sci.armAll (p : Sci) : Sci := { p with armed := p.armed ||| p.scsr }

/-- The second access of a flag-clearing sequence: the armed flags of `group` are cleared and disarmed (R91, R471). -/
def Sci.clearArmed (p : Sci) (group : Byte) : Sci :=
  { p with scsr := p.scsr &&& ~~~(p.armed &&& group), armed := p.armed &&& ~~~group }

/-! The SPI. -/

/-- A transfer ends with a received byte: SPIF sets (R68, R473). The shift register keeps the byte sent, and a byte that
finds SPIF = 1 replaces the one in the read buffer, which is the model's choice (notes/assumptions/25.md). -/
def Spi.receive (p : Spi) (data : Byte) : Spi :=
  { p with rx := data, left := none, slaveBusy := false, spsr := p.spsr ||| 0x80 }

/-- The SPI over `n` E cycles: the master's transfer ends and the byte of the other side is in the read buffer
(R473). -/
def advanceSpi (n : Nat) (s : State) : State :=
  let p := s.io.spi
  match p.left with
  | none => s
  | some k => if n < k then s.setSpi { p with left := some (k - n) } else s.setSpi (p.receive s.pins.miso)

/-- An external master starts a transfer with this slave: SPE = 1, MSTR = 0, SS low (R473). -/
def spiSlaveStart (s : State) : State :=
  let p := s.io.spi
  if bit p.spcr 6 ∧ ¬ bit p.spcr 4 ∧ ¬ bit s.pins.portD 5 then s.setSpi { p with slaveBusy := true } else s

/-- The external master has clocked the eighth bit of the transfer in progress into this slave, SS being low (R473). -/
def spiClocked (data : Byte) (s : State) : State :=
  if s.io.spi.slaveBusy ∧ ¬ bit s.pins.portD 5 then s.setSpi (s.io.spi.receive data) else s

/-- SS is pulled low: with MSTR = 1 a mode fault, which terminates SPI operation (R68, R474). That this ends the transfer in
progress alone, SPE and MSTR staying as they are, is the model's choice (notes/assumptions/25.md). -/
def spiSelected (s : State) : State :=
  let p := s.io.spi
  if bit p.spcr 6 ∧ bit p.spcr 4 then s.setSpi { p with spsr := p.spsr ||| 0x10, left := none } else s

/-- SS is released: a slave's transfer in progress ends without SPIF (R473, notes/assumptions/25.md). -/
def spiReleased (s : State) : State := s.setSpi { s.io.spi with slaveBusy := false }

/-- A read of SPSR arms every flag it returns as 1 (R474). -/
def Spi.armAll (p : Spi) : Spi := { p with armed := p.armed ||| p.spsr }

/-- The second access of a flag-clearing sequence (R91, R474). -/
def Spi.clearArmed (p : Spi) (group : Byte) : Spi :=
  { p with spsr := p.spsr &&& ~~~(p.armed &&& group), armed := p.armed &&& ~~~group }

/-- A write of SPDR: an access, then a write collision during a transfer, else a new byte to shift and, for an enabled
master, a new transfer (R68, R473). That a write which is both the clearing access of an armed WCOL and a new collision clears
first, so that WCOL stays 1, is the model's choice (notes/assumptions/25.md). -/
def Spi.writeData (p : Spi) (v : Byte) : Spi :=
  let p := p.clearArmed 0xC0
  if p.left.isSome || p.slaveBusy then { p with spsr := p.spsr ||| 0x40 }
  else
    { p with
      shift := v
      left := if bit p.spcr 6 && bit p.spcr 4 then some (spiTransferCycles p.spcr) else none }

/-- A write of SPCR: the second step of clearing MODF; a transfer ends when SPE is cleared or MSTR changes, and keeps its
length when SPR changes (R474, notes/assumptions/25.md). -/
def Spi.writeControl (p : Spi) (v : Byte) : Spi :=
  let p := p.clearArmed 0x10
  { p with spcr := v, left := if bit v 6 && bit v 4 then p.left else none, slaveBusy := p.slaveBusy && bit v 6 && !bit v 4 }

/-! The A/D converter. -/

/-- A write of ADCTL clears CCF and starts a sequence while the converter is powered (R75, R475). -/
def Adc.start (p : Adc) (v : Byte) (powered : Bool) : Adc :=
  { p with adctl := v &&& 0x3F, next := if powered then some 0 else none }

/-- OPTION.ADPU is written: a converter that is powered down has no sequence in progress (R80, R475). That it starts none
again when it is powered up is the model's choice (notes/assumptions/26.md). -/
def Adc.power (p : Adc) (powered : Bool) : Adc := { p with next := if powered then p.next else none }

/-- One conversion is finished: the results fill ADR1 to ADR4, CCF sets after the fourth, and with SCAN = 1 the sequence
starts again (R475). -/
def Adc.convert (p : Adc) (data : Byte) : Adc :=
  match p.next with
  | none => p
  | some 0 => { p with adr1 := data, next := some 1 }
  | some 1 => { p with adr2 := data, next := some 2 }
  | some 2 => { p with adr3 := data, next := some 3 }
  | some 3 => { p with adr4 := data, adctl := p.adctl ||| 0x80, next := if bit p.adctl 5 then some 0 else none }

/-- The powered converter finishes a conversion; one that is powered down finishes none (R475). -/
def adcResult (data : Byte) (s : State) : State :=
  if bit s.io.sys.option 7 then s.setAdc (s.io.adc.convert data) else s

end Sys2Proof.Machine
end

