-- ==== Sys2Proof/Machine/Timer.lean ====
section
/-! DEFINITION. The free-running timer, its output compares and input captures, the real-time interrupt and the pulse
accumulator (60_exceptions.md, R460 to R466). -/

namespace Sys2Proof.Machine

/-- TCNT after `k` more E cycles (R460). -/
def tcntAfter (t : Timer) (k : Nat) : Word := t.tcnt + BitVec.ofNat 16 ((t.prescale + k) / timerPrescaler t.tmsk2)

/-- The number of counts, from 0, after which TCNT matches a compare register within the next `k` counts (R462). -/
def matchWithin (tcnt compare : Word) (k : Nat) : Option Nat :=
  let d := (compare - tcnt - 1).toNat
  if d < k then some d else none

/-- What a compare of OC2 to OC5 does to its pin, from OMx:OLx (R59). -/
def ocAction (om ol old : Bool) : Bool :=
  match om, ol with
  | false, false => old
  | false, true => !old
  | true, false => false
  | true, true => true

/-- A pin's latch after the compares that fell on it: `oc1` is the time of an OC1 compare that controls the pin and the
level it drives, `ocx` the time of the pin's own compare with OMx and OLx. The later acts last; two at the same time that
disagree leave a free value (N23, notes/assumptions/20.md). -/
def pinAfter (old : Bool) (oc1 : Option (Nat × Bool)) (ocx : Option (Nat × Bool × Bool)) (free : Bool) : Bool :=
  match oc1, ocx with
  | none, none => old
  | some (_, v), none => v
  | none, some (_, om, ol) => ocAction om ol old
  | some (t1, v), some (tx, om, ol) =>
    if !om && !ol then v
    else if t1 < tx then ocAction om ol v
    else if tx < t1 then v
    else if ocAction om ol old = v then v
    else free

/-- The times at which compares act on the pins, by match or by CFORC (R52, R462). -/
structure OcTimes where
  oc1 : Option Nat
  oc2 : Option Nat
  oc3 : Option Nat
  oc4 : Option Nat
  oc5 : Option Nat
deriving DecidableEq, Repr

/-- The pin actions of a set of compares: OC2 to OC5 on PA6 to PA3, OC1 on the pins of OC1M (R53, R54, R462). -/
def driveOcPins (w : OcTimes) (s : State) : State :=
  let t := s.io.timer
  let byOc1 (k : Nat) : Option (Nat × Bool) := if bit t.oc1m k then w.oc1.map fun d => (d, bit t.oc1d k) else none
  let byOcx (time : Option Nat) (k : Nat) : Option (Nat × Bool × Bool) :=
    time.map fun d => (d, bit t.tctl1 (k + 1), bit t.tctl1 k)
  let pin (k : Nat) (own : Option (Nat × Bool × Bool)) : Byte :=
    flagBit k (pinAfter (bit t.ocPins k) (byOc1 k) own (Config.freeBit (s.draws + k)))
  let pins := pin 7 none ||| pin 6 (byOcx w.oc2 6) ||| pin 5 (byOcx w.oc3 4) ||| pin 4 (byOcx w.oc4 2) |||
    pin 3 (byOcx w.oc5 0)
  (s.setTimer { t with ocPins := pins }).drawn 8

/-- OC5 is enabled: PACTL.I4/O5 = 0 (R65). -/
def oc5Enabled (t : Timer) : Bool := !bit t.pactl 2

/-- The compares that match in the next `k` counts. -/
def compareMatches (t : Timer) (k : Nat) : OcTimes where
  oc1 := matchWithin t.tcnt t.toc1 k
  oc2 := matchWithin t.tcnt t.toc2 k
  oc3 := matchWithin t.tcnt t.toc3 k
  oc4 := matchWithin t.tcnt t.toc4 k
  oc5 := if oc5Enabled t then matchWithin t.tcnt t.ti4o5 k else none

/-- The TFLG1 flags of a set of matches (R62). -/
def matchFlags (w : OcTimes) : Byte :=
  flagBit 7 w.oc1.isSome ||| flagBit 6 w.oc2.isSome ||| flagBit 5 w.oc3.isSome ||| flagBit 4 w.oc4.isSome |||
    flagBit 3 w.oc5.isSome

/-- The timer over `n` E cycles: TCNT counts, TOF and the compare flags set, the pins are driven (R460, R462, R464). -/
def advanceTimer (n : Nat) (s : State) : State :=
  let t := s.io.timer
  let k := (t.prescale + n) / timerPrescaler t.tmsk2
  let w := compareMatches t k
  let counted := s.setTimer { t with
    tcnt := tcntAfter t n
    prescale := (t.prescale + n) % timerPrescaler t.tmsk2
    tflg1 := t.tflg1 ||| matchFlags w
    tflg2 := t.tflg2 ||| flagBit 7 (65536 ≤ t.tcnt.toNat + k) }
  if matchFlags w = 0 then counted else driveOcPins w counted

/-- The real-time interrupt over `n` E cycles: its periods count from reset (R465, D33). -/
def advanceRti (n : Nat) (s : State) : State :=
  let t := s.io.timer
  let c := s.io.sys.cycles
  let due : Bool := c / rtiPeriod t.pactl < (c + n) / rtiPeriod t.pactl
  s.setTimer { t with tflg2 := t.tflg2 ||| flagBit 6 due }

/-- PACNT after `k` counts; PAOVF sets when it passes from $FF to $00 (R66, R466). That counting alone sets it is the model's
choice (notes/assumptions/46.md). -/
def countPacnt (k : Nat) (t : Timer) : Timer :=
  { t with
    pacnt := t.pacnt + BitVec.ofNat 8 k
    tflg2 := t.tflg2 ||| flagBit 5 (256 ≤ t.pacnt.toNat + k) }

/-- The pulse accumulator over `n` E cycles: in gated mode it counts every 64 unless PAI is at the inhibiting level
(R466). The 64 are counted from reset, which is the model's choice (notes/assumptions/44.md), and PAI is the outside's level
(notes/assumptions/20.md). -/
def advancePulse (n : Nat) (s : State) : State :=
  let t := s.io.timer
  let c := s.io.sys.cycles
  let inhibited := bit s.pins.portA 7 = bit t.pactl 4
  if bit t.pactl 6 ∧ bit t.pactl 5 ∧ ¬ inhibited then s.setTimer (countPacnt ((c + n) / 64 - c / 64) t) else s

/-- The edge selected by a pair EDGxB:EDGxA of TCTL2 (R60): A selects rising edges, B falling ones. -/
def edgeSelected (b a old new : Bool) : Bool := (a && !old && new) || (b && old && !new)

/-- An edge on the pulse accumulator input PA7 (R466). In gated mode the spec does not say which edge sets PAIF
(notes/assumptions/21.md). -/
def pulseEdge (old new : Bool) (s : State) : State :=
  let t := s.io.timer
  if bit t.pactl 6 = false ∨ old = new then s
  else if bit t.pactl 5 then
    (s.setTimer { t with tflg2 := t.tflg2 ||| flagBit 4 (Config.freeBit s.draws) }).drawn 1
  else if new = bit t.pactl 4 then s.setTimer (countPacnt 1 { t with tflg2 := t.tflg2 ||| flagBit 4 true })
  else s

/-- The input captures on a change of the port A levels: PA2, PA1, PA0 for IC1 to IC3, PA3 for IC4 when PACTL.I4/O5 = 1
(R463). -/
def captureEdges (old new : Byte) (s : State) : State :=
  let t := s.io.timer
  let hit (edge pin : Nat) : Bool := edgeSelected (bit t.tctl2 (edge + 1)) (bit t.tctl2 edge) (bit old pin) (bit new pin)
  let ic1 := hit 4 2
  let ic2 := hit 2 1
  let ic3 := hit 0 0
  let ic4 := !oc5Enabled t && hit 6 3
  s.setTimer { t with
    tic1 := if ic1 then t.tcnt else t.tic1
    tic2 := if ic2 then t.tcnt else t.tic2
    tic3 := if ic3 then t.tcnt else t.tic3
    ti4o5 := if ic4 then t.tcnt else t.ti4o5
    tflg1 := t.tflg1 ||| flagBit 2 ic1 ||| flagBit 1 ic2 ||| flagBit 0 ic3 ||| flagBit 3 ic4 }

end Sys2Proof.Machine
end

