-- ==== Sys2Proof/Machine/Advance.lean ====
section
/-! DEFINITION. The agents beside the CPU over a number of E cycles (R460 to R476, R511, D33). -/

namespace Sys2Proof.Machine

/-- The COP watchdog is enabled: CONFIG.NOCOP = 0 and, in the special modes, TEST1.DISR = 0 (R467). -/
def copEnabled (s : State) : Bool := !bit s.io.sys.config 2 && !s.resetsDisabled

/-- The COP over `n` E cycles: no timeout before T, one at T + 2^15 at the latest, and between them where a free value
says so (R467). It counts while it is disabled too, which is the model's choice (notes/assumptions/11.md). -/
def advanceCop (n : Nat) (s : State) : State :=
  let count := s.io.sys.copCount + n
  let timeout := copTimeout s.io.sys.option
  let counted := s.setSys { s.io.sys with copCount := count }
  if ¬ copEnabled s ∨ count < timeout then counted
  else if timeout + copTolerance ≤ count then counted.raiseReset .cop
  else if Config.freeBit s.draws then (counted.drawn 1).raiseReset .cop
  else counted.drawn 1

/-- The count of E cycles since reset (R92). -/
def countCycles (n : Nat) (s : State) : State := s.setSys { s.io.sys with cycles := s.io.sys.cycles + n }

/-- Time passes: every agent moves over `n` E cycles (R511). Each reads and writes its own registers; the real-time
interrupt and the pulse accumulator read the count of cycles before it moves. -/
def advance (n : Nat) (s : State) : State :=
  countCycles n (advanceCop n (advanceStrobe n (advanceSci n (advanceSpi n (advancePulse n (advanceRti n
    (advanceTimer n s)))))))

end Sys2Proof.Machine
end

