-- ==== Sys2Proof/Syntax.lean ====
section
/-! DEFINITION. The instructions as terms: one constructor of Instr for each mnemonic of spec/opcode_table.json, its
operand form an argument (notes/assumptions/1.md). The aliases of R189 are the same words and have none. -/

namespace Sys2Proof

/-- A memory operand (R174 to R177, R179). -/
inductive Ea where
  /-- DIR: the address $00:dd. -/
  | dir (dd : Byte)
  /-- EXT: the address hh:ll. -/
  | ext (addr : Word)
  /-- IND,X: the address IX + ff, ff unsigned. -/
  | indX (ff : Byte)
  /-- IND,Y: the address IY + ff, ff unsigned. -/
  | indY (ff : Byte)
deriving DecidableEq, Repr

/-- The source of an 8-bit operation: `opnd8` of R193. -/
inductive Src8 where
  /-- IMM: the byte ii. -/
  | imm (ii : Byte)
  | mem (m : Ea)
deriving DecidableEq, Repr

/-- The source of a 16-bit operation: `opnd16` of R193. -/
inductive Src16 where
  /-- IMM: the value jj:kk. -/
  | imm (jjkk : Word)
  | mem (m : Ea)
deriving DecidableEq, Repr

/-- The instructions of Table 1. -/
inductive Instr where
  -- Loads, stores, clears, stack and transfers (40_load_store_transfer.md).
  | clr (m : Ea)
  | clra
  | clrb
  | ldaa (o : Src8)
  | ldab (o : Src8)
  | ldd (o : Src16)
  | lds (o : Src16)
  | ldx (o : Src16)
  | ldy (o : Src16)
  | psha
  | pshb
  | pshx
  | pshy
  | pula
  | pulb
  | pulx
  | puly
  | staa (m : Ea)
  | stab (m : Ea)
  | std (m : Ea)
  | sts (m : Ea)
  | stx (m : Ea)
  | sty (m : Ea)
  | tab
  | tap
  | tba
  | tpa
  | tsx
  | tsy
  | txs
  | tys
  | xgdx
  | xgdy
  -- Arithmetic (41_arithmetic.md).
  | aba
  | abx
  | aby
  | adca (o : Src8)
  | adcb (o : Src8)
  | adda (o : Src8)
  | addb (o : Src8)
  | addd (o : Src16)
  | cba
  | cmpa (o : Src8)
  | cmpb (o : Src8)
  | cpd (o : Src16)
  | cpx (o : Src16)
  | cpy (o : Src16)
  | daa
  | dec (m : Ea)
  | deca
  | decb
  | des
  | dex
  | dey
  | fdiv
  | idiv
  | inc (m : Ea)
  | inca
  | incb
  | ins
  | inx
  | iny
  | mul
  | neg (m : Ea)
  | nega
  | negb
  | sba
  | sbca (o : Src8)
  | sbcb (o : Src8)
  | suba (o : Src8)
  | subb (o : Src8)
  | subd (o : Src16)
  | tst (m : Ea)
  | tsta
  | tstb
  -- Logic, shifts and bits (42_logic_shift_bit.md).
  | anda (o : Src8)
  | andb (o : Src8)
  | asl (m : Ea)
  | asla
  | aslb
  | asld
  | asr (m : Ea)
  | asra
  | asrb
  | bclr (m : Ea) (mm : Byte)
  | bita (o : Src8)
  | bitb (o : Src8)
  | bset (m : Ea) (mm : Byte)
  | com (m : Ea)
  | coma
  | comb
  | eora (o : Src8)
  | eorb (o : Src8)
  | lsr (m : Ea)
  | lsra
  | lsrb
  | lsrd
  | oraa (o : Src8)
  | orab (o : Src8)
  | rol (m : Ea)
  | rola
  | rolb
  | ror (m : Ea)
  | rora
  | rorb
  -- Branches, jumps and subroutines (43_branch_jump.md).
  | bcc (rr : Byte)
  | bcs (rr : Byte)
  | beq (rr : Byte)
  | bge (rr : Byte)
  | bgt (rr : Byte)
  | bhi (rr : Byte)
  | ble (rr : Byte)
  | bls (rr : Byte)
  | blt (rr : Byte)
  | bmi (rr : Byte)
  | bne (rr : Byte)
  | bpl (rr : Byte)
  | bra (rr : Byte)
  | brclr (m : Ea) (mm rr : Byte)
  | brn (rr : Byte)
  | brset (m : Ea) (mm rr : Byte)
  | bsr (rr : Byte)
  | bvc (rr : Byte)
  | bvs (rr : Byte)
  | jmp (m : Ea)
  | jsr (m : Ea)
  | rts
  -- Condition codes and system (44_system.md).
  | clc
  | cli
  | clv
  | nop
  | rti
  | sec
  | sei
  | sev
  | stop
  | swi
  | test
  | wai
deriving DecidableEq, Repr

end Sys2Proof
end

