-- ==== Sys2Proof/Machine/Cycles.lean ====
section
/-! DEFINITION. How long an instruction takes, in E cycles: the Cycles column of Table 1 (R190, R510). -/

namespace Sys2Proof.Machine

/-- A count for each memory form. -/
def memCycles (dir ext indX indY : Nat) : Ea → Nat
  | .dir _ => dir
  | .ext _ => ext
  | .indX _ => indX
  | .indY _ => indY

/-- 8-bit accumulator operations: 2/3/4/4/5. -/
def cycles8 : Src8 → Nat
  | .imm _ => 2
  | .mem m => memCycles 3 4 4 5 m

/-- 16-bit operations: the count of the IMM form, that of the IND,Y form, and one, two and two more for DIR, EXT and
IND,X. -/
def cycles16 (imm indY : Nat) : Src16 → Nat
  | .imm _ => imm
  | .mem m => memCycles (imm + 1) (imm + 2) (imm + 2) indY m

/-- The read-modify-write instructions, CLR and TST: EXT/IND,X/IND,Y = 6/6/7. They have no DIR form. -/
def cyclesRmw (m : Ea) : Nat := memCycles 0 6 6 7 m

/-- BSET, BCLR, BRSET, BRCLR: DIR/IND,X/IND,Y = 6/7/8, the counts of Table 1, which R510 takes as they are (R190, R386,
R388); its last sentence gives other ones for BRSET and BRCLR (notes/assumptions/41.md). They have no EXT form. -/
def cyclesBit (m : Ea) : Nat := memCycles 6 0 7 8 m

/-- 8-bit stores. -/
def cyclesStore8 (m : Ea) : Nat := memCycles 3 4 4 5 m

/-- STD, STS and STX. -/
def cyclesStore16 (m : Ea) : Nat := memCycles 4 5 5 6 m

/-- The cycles of an exception entry: 12 to stack, 2 to fetch the vector (R440). -/
def entryCycles : Nat := 14

/-- The start-up delay of OPTION.DLY after the stop state (R512, D23). -/
def startUpCycles : Nat := 4064

/-- The cycles that end a wait (R445). -/
def wakeCycles : Nat := 2

/-- The cycles of an instruction. WAI uses 12 before the wait (R421). TEST takes no cycle of its own in the special modes,
where each further cycle is a step of its own, and is an exception entry in the normal modes (R420,
notes/assumptions/10.md). -/
def cyclesOf (i : Instr) (s : State) : Nat :=
  match i with
  | .clr m | .dec m | .inc m | .neg m | .tst m | .asl m | .asr m | .com m | .lsr m | .rol m | .ror m => cyclesRmw m
  | .clra | .clrb | .tab | .tap | .tba | .tpa | .aba | .cba | .daa | .deca | .decb | .inca | .incb | .nega | .negb
  | .sba | .tsta | .tstb | .asla | .aslb | .asra | .asrb | .coma | .comb | .lsra | .lsrb | .rola | .rolb | .rora
  | .rorb | .clc | .cli | .clv | .nop | .sec | .sei | .sev | .stop => 2
  | .ldaa o | .ldab o | .adca o | .adcb o | .adda o | .addb o | .cmpa o | .cmpb o | .sbca o | .sbcb o | .suba o
  | .subb o | .anda o | .andb o | .bita o | .bitb o | .eora o | .eorb o | .oraa o | .orab o => cycles8 o
  | .ldd o | .lds o | .ldx o => cycles16 3 6 o
  | .ldy o => cycles16 4 6 o
  | .addd o | .cpx o | .subd o => cycles16 4 7 o
  | .cpd o | .cpy o => cycles16 5 7 o
  | .psha | .pshb | .tsx | .txs | .xgdx | .abx | .des | .dex | .ins | .inx | .asld | .lsrd => 3
  | .pshx | .pula | .pulb | .tsy | .tys | .xgdy | .aby | .dey | .iny => 4
  | .pshy | .pulx | .rts => 5
  | .puly => 6
  | .staa m | .stab m => cyclesStore8 m
  | .std m | .sts m | .stx m => cyclesStore16 m
  | .sty m => memCycles 5 6 6 6 m
  | .fdiv | .idiv => 41
  | .mul => 10
  | .bclr m _ | .bset m _ => cyclesBit m
  | .brclr m _ _ | .brset m _ _ => cyclesBit m
  | .bcc _ | .bcs _ | .beq _ | .bge _ | .bgt _ | .bhi _ | .ble _ | .bls _ | .blt _ | .bmi _ | .bne _ | .bpl _ | .bra _
  | .brn _ | .bvc _ | .bvs _ => 3
  | .bsr _ => 6
  | .jmp m => memCycles 0 3 3 4 m
  | .jsr m => memCycles 5 6 6 7 m
  | .rti => 12
  | .swi => entryCycles
  | .test => if s.smod then 0 else entryCycles
  | .wai => 12

end Sys2Proof.Machine
end

