-- ==== Sys2Proof/Machine/Flags.lean ====
section
/-! DEFINITION. The condition codes: the helpers of R36, R250 to R253, R320 and R321, each from the flags before to the
flags after; a bit a helper does not name keeps its value. -/

namespace Sys2Proof.Machine

/-- `NZ8` (R36). -/
def nz8 (r : Byte) (c : Ccr) : Ccr := { c with n := bit r 7, z := r = 0 }

/-- `NZ16` (R36). -/
def nz16 (r : Word) (c : Ccr) : Ccr := { c with n := r.getLsbD 15, z := r = 0 }

/-- `NZV0_8` (R36), which is also `logic8` (R320). -/
def nzv0 (r : Byte) (c : Ccr) : Ccr := { nz8 r c with v := false }

/-- `NZV0_16` (R36). -/
def nzv0Word (r : Word) (c : Ccr) : Ccr := { nz16 r c with v := false }

/-- `add8(x, m, c)` (R250). -/
def add8 (x m : Byte) (cin : Bool) (c : Ccr) : Byte × Ccr :=
  let t := x.toNat + m.toNat + cin.toNat
  let r := BitVec.ofNat 8 t
  (r, { nz8 r c with
    h := 15 < x.toNat % 16 + m.toNat % 16 + cin.toNat
    c := 255 < t
    v := bit x 7 == bit m 7 && bit r 7 != bit x 7 })

/-- `sub8(x, m, c)` (R251). -/
def sub8 (x m : Byte) (cin : Bool) (c : Ccr) : Byte × Ccr :=
  let t : Int := (x.toNat : Int) - m.toNat - cin.toNat
  let r := BitVec.ofInt 8 t
  (r, { nz8 r c with
    c := t < 0
    v := bit x 7 != bit m 7 && bit r 7 != bit x 7 })

/-- `add16(x, m)` (R252). -/
def add16 (x m : Word) (c : Ccr) : Word × Ccr :=
  let t := x.toNat + m.toNat
  let r := BitVec.ofNat 16 t
  (r, { nz16 r c with
    c := 65535 < t
    v := x.getLsbD 15 == m.getLsbD 15 && r.getLsbD 15 != x.getLsbD 15 })

/-- `sub16(x, m)` (R253). -/
def sub16 (x m : Word) (c : Ccr) : Word × Ccr :=
  let t : Int := (x.toNat : Int) - m.toNat
  let r := BitVec.ofInt 16 t
  (r, { nz16 r c with
    c := t < 0
    v := x.getLsbD 15 != m.getLsbD 15 && r.getLsbD 15 != x.getLsbD 15 })

/-- `shift_flags(r, c_out, 8)` (R321). -/
def shiftFlags (r : Byte) (out : Bool) (c : Ccr) : Ccr := { nz8 r c with c := out, v := bit r 7 != out }

/-- `shift_flags(r, c_out, 16)` (R321). -/
def shiftFlagsWord (r : Word) (out : Bool) (c : Ccr) : Ccr := { nz16 r c with c := out, v := r.getLsbD 15 != out }

/-- The flags of CLR: N = 0, Z = 1, V = 0, C = 0 (R200). -/
def clearFlags (c : Ccr) : Ccr := { c with n := false, z := true, v := false, c := false }

/-- The flags of TST: N and Z from the byte, V = 0, C = 0 (R299). -/
def testFlags (r : Byte) (c : Ccr) : Ccr := { nzv0 r c with c := false }

/-- The flags of COM: N and Z from the result, V = 0, C = 1 (R335). -/
def complementFlags (r : Byte) (c : Ccr) : Ccr := { nzv0 r c with c := true }

/-- NEG: the result and V, C of 0 - m (R290). -/
def neg8 (m : Byte) (c : Ccr) : Byte × Ccr :=
  let r := 0 - m
  (r, { nz8 r c with v := r = 0x80, c := r ≠ 0 })

/-- INC: V when $7F becomes $80, C kept (R283). -/
def inc8 (m : Byte) (c : Ccr) : Byte × Ccr := (m + 1, { nz8 (m + 1) c with v := m = 0x7F })

/-- DEC: V when $80 becomes $7F, C kept (R275). -/
def dec8 (m : Byte) (c : Ccr) : Byte × Ccr := (m - 1, { nz8 (m - 1) c with v := m = 0x80 })

/-- COM (R335). -/
def com8 (m : Byte) (c : Ccr) : Byte × Ccr := (m ^^^ 0xFF, complementFlags (m ^^^ 0xFF) c)

/-- A shift or rotate: the result, and the flags with the bit that leaves in C. -/
def shifted (r : Byte) (out : Bool) (c : Ccr) : Byte × Ccr := (r, shiftFlags r out c)

/-- ASL (R324). -/
def asl8 (m : Byte) (c : Ccr) : Byte × Ccr := shifted (m <<< 1) (bit m 7) c

/-- ASR: bit 7 is kept (R328). -/
def asr8 (m : Byte) (c : Ccr) : Byte × Ccr := shifted ((m >>> 1) ||| (m &&& 0x80)) (bit m 0) c

/-- LSR (R344). -/
def lsr8 (m : Byte) (c : Ccr) : Byte × Ccr := shifted (m >>> 1) (bit m 0) c

/-- ROL: the old C enters at bit 0 (R350). -/
def rol8 (m : Byte) (c : Ccr) : Byte × Ccr := shifted ((m <<< 1) ||| flagBit 0 c.c) (bit m 7) c

/-- ROR: the old C enters at bit 7 (R353). -/
def ror8 (m : Byte) (c : Ccr) : Byte × Ccr := shifted ((m >>> 1) ||| flagBit 7 c.c) (bit m 0) c

end Sys2Proof.Machine
end

