-- ==== Sys2Proof/Machine/Inputs.lean ====
section
/-! DEFINITION. The outside world's moves (00_scope.md section 6, D27; notes/assumptions/8.md). While the clocks are
stopped only pin levels, the IRQ latch and resets change (R418, R479, notes/assumptions/12.md). -/

namespace Sys2Proof.Machine

/-- The clocks run. -/
def State.clocked (s : State) : Bool := s.cpu.run ≠ .stopped

/-- An agent's move, made only while the clocks run. -/
def whenClocked (f : State → State) (s : State) : State := if s.clocked then f s else s

/-- The level on IRQ; with OPTION.IRQE = 1 a falling edge sets the latch (R90, R451). -/
def irqLevel (level : Bool) (s : State) : State :=
  let falls := bit s.io.sys.option 5 && s.pins.irq && !level
  (s.setPins { s.pins with irq := level }).setSys { s.io.sys with irqLatch := s.io.sys.irqLatch || falls }

/-- The level on STRA (R43). -/
def straLevel (level : Bool) (s : State) : State :=
  whenClocked (straEdge s.pins.stra level) (s.setPins { s.pins with stra := level })

/-- The levels on port A: the captures and the pulse accumulator see the outside's level alone, on a pin that the chip
drives too (R463, R466, notes/assumptions/20.md). -/
def portALevels (levels : Byte) (s : State) : State :=
  let old := s.pins.portA
  whenClocked (fun t => pulseEdge (bit old 7) (bit levels 7) (captureEdges old levels t))
    (s.setPins { s.pins with portA := levels })

/-- The levels on port D; a falling PD5 is SS pulled low, a rising one releases the slave, while the clocks are stopped
too (R68, R473, notes/assumptions/25.md). -/
def portDLevels (levels : Byte) (s : State) : State :=
  let falls := bit s.pins.portD 5 && !bit levels 5
  let rises := !bit s.pins.portD 5 && bit levels 5
  let t := s.setPins { s.pins with portD := levels }
  if rises then spiReleased t else if falls then whenClocked spiSelected t else t

/-- A clock failure resets while OPTION.CME = 1 and TEST1.DISR = 0 (R468). -/
def clockFails (s : State) : State :=
  if bit s.io.sys.option 3 && !s.resetsDisabled then s.raiseReset .clockMonitor else s

/-- One move. -/
def applyInput (s : State) (i : Input) : State :=
  match i with
  | .resetPin => s.raiseReset .pin
  | .clockFailure => clockFails s
  | .modePins a b => s.setPins { s.pins with modA := a, modB := b }
  | .irqPin l => irqLevel l s
  | .xirqPin l => s.setPins { s.pins with xirq := l }
  | .straPin l => straLevel l s
  | .portA v => portALevels v s
  | .portC v => s.setPins { s.pins with portC := v }
  | .portD v => portDLevels v s
  | .portE v => s.setPins { s.pins with portE := v }
  | .sciCharacter d noise framing => whenClocked (sciCharacter d noise framing) s
  | .sciIdleLine => whenClocked sciIdleLine s
  | .sciShifterReady => whenClocked sciShifterReady s
  | .spiIncoming d => s.setPins { s.pins with miso := d }
  | .spiSlaveStart => whenClocked spiSlaveStart s
  | .spiClocked d => whenClocked (spiClocked d) s
  | .adcResult d => whenClocked (adcResult d) s

/-- The moves of one moment, in order. -/
def takeInputs (s : State) : State :=
  match s.inputs with
  | [] => s
  | moves :: later => moves.foldl applyInput { s with inputs := later }

end Sys2Proof.Machine
end

