-- ==== Sys2Proof/Machine/Between.lean ====
section
/-! DEFINITION. What happens between two accesses of one instruction: the outside world and the agents may move, one E cycle
passes between two data accesses, and a reset that becomes due abandons the instruction (R135, R155, R157, R490, R507). -/

namespace Sys2Proof.Machine

/-- A reset is due: the instruction in progress is abandoned, and nothing of it happens any more but what no one sees after
the reset (R490, notes/assumptions/33.md). -/
def State.resetDue (s : State) : Bool := s.io.sys.pendingReset.isSome

/-- After a fetched byte: the outside world may move (R155). -/
def pause (s : State) : State := if s.resetDue then s else takeInputs s

/-- `n` of them. -/
def pauses : Nat → State → State
  | 0, s => s
  | n + 1, s => pauses n (pause s)

/-- Between two data accesses of an instruction: one E cycle passes, and the outside world may move (R155, R507,
notes/assumptions/9.md). -/
def beat (s : State) : State := if s.resetDue then s else takeInputs (advance 1 s)

/-- `n` of them. -/
def beats : Nat → State → State
  | 0, s => s
  | n + 1, s => beats n (beat s)

end Sys2Proof.Machine
end

