-- ==== Sys2Proof/Machine/Memory.lean ====
section
/-! DEFINITION. Memories as sorted lists of cells: reading, writing, and the canonical form. -/

namespace Sys2Proof.Machine

/-- What a byte that nothing has written reads as. The spec gives no content of RAM after power-on and takes the images
of the other memories as parameters (R137, R494, D4): $00 is the model's (notes/assumptions/3.md). -/
def unwritten : Byte := 0

/-- The byte at a key. -/
def Memory.read : Memory → Nat → Byte
  | [], _ => unwritten
  | (k, b) :: m, a => if a = k then b else Memory.read m a

/-- The memory with the cell (a, v), in its place. -/
def Memory.insert : Memory → Nat → Byte → Memory
  | [], a, v => [(a, v)]
  | (k, b) :: m, a, v =>
    if a < k then (a, v) :: (k, b) :: m
    else if a = k then (a, v) :: m
    else (k, b) :: Memory.insert m a v

/-- The memory with no cell at `a`. -/
def Memory.erase (m : Memory) (a : Nat) : Memory := m.filter fun cell => cell.1 ≠ a

/-- The memory with `v` at `a`; no cell lists what an unlisted key reads as. -/
def Memory.write (m : Memory) (a : Nat) (v : Byte) : Memory :=
  if v = unwritten then Memory.erase m a else Memory.insert m a v

/-- The keys of a memory rise strictly from `low` on. -/
def Memory.risesFrom : Nat → Memory → Bool
  | _, [] => true
  | low, (k, _) :: m => low ≤ k && Memory.risesFrom (k + 1) m

/-- The canonical form: strictly rising keys, no cell that an unlisted key would read as. -/
def Memory.wf (m : Memory) : Bool := Memory.risesFrom 0 m && m.all fun cell => cell.2 ≠ unwritten

/-- Every memory of the machine is canonical. -/
def Mem.wf (m : Mem) : Bool :=
  Memory.wf m.ram && Memory.wf m.eeprom && Memory.wf m.rom && Memory.wf m.bootRom && Memory.wf m.ext

end Sys2Proof.Machine
end

