-- ==== Sys2Proof/Machine/RegisterBlock.lean ====
section
/-! DEFINITION. The 64-byte register block: which register an offset names, what a read returns and does, what a write
does, and which writes the spec refuses (10_state.md part 2, R40 to R88; 20_memory.md R151; R500 to R503). -/

namespace Sys2Proof.Machine

/-- The bytes of the register block (R88); the halves of a 16-bit register are two bytes, the high one first. -/
inductive IoReg where
  | porta | reserved | pioc | portc | portb | portcl | ddrc | portd | ddrd | porte | cforc | oc1m | oc1d
  | tcntHi | tcntLo | tic1Hi | tic1Lo | tic2Hi | tic2Lo | tic3Hi | tic3Lo
  | toc1Hi | toc1Lo | toc2Hi | toc2Lo | toc3Hi | toc3Lo | toc4Hi | toc4Lo | ti4o5Hi | ti4o5Lo
  | tctl1 | tctl2 | tmsk1 | tflg1 | tmsk2 | tflg2 | pactl | pacnt | spcr | spsr | spdr
  | baud | sccr1 | sccr2 | scsr | scdr | adctl | adr1 | adr2 | adr3 | adr4
  | bprot | eprog | option | coprst | pprog | hprio | init | test1 | config
deriving DecidableEq, Repr

/-- The registers at offsets $00 to $1F (R88). -/
def lowRegisters : List IoReg := [
  .porta, .reserved, .pioc, .portc, .portb, .portcl, .reserved, .ddrc,
  .portd, .ddrd, .porte, .cforc, .oc1m, .oc1d, .tcntHi, .tcntLo,
  .tic1Hi, .tic1Lo, .tic2Hi, .tic2Lo, .tic3Hi, .tic3Lo, .toc1Hi, .toc1Lo,
  .toc2Hi, .toc2Lo, .toc3Hi, .toc3Lo, .toc4Hi, .toc4Lo, .ti4o5Hi, .ti4o5Lo]

/-- The registers at offsets $20 to $3F (R88). -/
def highRegisters : List IoReg := [
  .tctl1, .tctl2, .tmsk1, .tflg1, .tmsk2, .tflg2, .pactl, .pacnt,
  .spcr, .spsr, .spdr, .baud, .sccr1, .sccr2, .scsr, .scdr,
  .adctl, .adr1, .adr2, .adr3, .adr4, .bprot, .eprog, .reserved,
  .reserved, .option, .coprst, .pprog, .hprio, .init, .test1, .config]

/-- The register at an offset from the base of the block (R40, R88). -/
def registerAt (off : Nat) : IoReg :=
  if off < 32 then lowRegisters.getD off .reserved else highRegisters.getD (off - 32) .reserved

/-- A read of any value (R40). -/
def freshByte (s : State) : Byte × State := (Config.freeByte s.draws, s.drawn 1)

/-- A read of EPROG: MBE and the test bits read 0 in the normal modes (R78). -/
def visibleEprog (s : State) : Byte := if s.smod then s.io.sys.eprog else s.io.sys.eprog &&& 0x21

/-- What a read of a register returns, and the state after its side effects (R41 to R87, R151). -/
def readRegister (r : IoReg) (s : State) : Byte × State :=
  let t := s.io.timer
  match r with
  | .porta => (readPortA s, s)
  | .reserved => freshByte s
  | .pioc => readPioc s
  | .portc => readPortC s
  | .portb => (s.io.ports.portb, s)
  | .portcl => readPortCl s
  | .ddrc => (s.io.ports.ddrc, s)
  | .portd => (readPortD s, s)
  | .ddrd => (s.io.ports.ddrd, s)
  | .porte => (s.pins.portE, s)
  | .cforc => (0, s)
  | .oc1m => (t.oc1m, s)
  | .oc1d => (t.oc1d, s)
  | .tcntHi => (hi t.tcnt, s)
  | .tcntLo => (lo t.tcnt, s)
  | .tic1Hi => (hi t.tic1, s)
  | .tic1Lo => (lo t.tic1, s)
  | .tic2Hi => (hi t.tic2, s)
  | .tic2Lo => (lo t.tic2, s)
  | .tic3Hi => (hi t.tic3, s)
  | .tic3Lo => (lo t.tic3, s)
  | .toc1Hi => (hi t.toc1, s)
  | .toc1Lo => (lo t.toc1, s)
  | .toc2Hi => (hi t.toc2, s)
  | .toc2Lo => (lo t.toc2, s)
  | .toc3Hi => (hi t.toc3, s)
  | .toc3Lo => (lo t.toc3, s)
  | .toc4Hi => (hi t.toc4, s)
  | .toc4Lo => (lo t.toc4, s)
  | .ti4o5Hi => (hi t.ti4o5, s)
  | .ti4o5Lo => (lo t.ti4o5, s)
  | .tctl1 => (t.tctl1, s)
  | .tctl2 => (t.tctl2, s)
  | .tmsk1 => (t.tmsk1, s)
  | .tflg1 => (t.tflg1, s)
  | .tmsk2 => (t.tmsk2, s)
  | .tflg2 => (t.tflg2, s)
  | .pactl => (t.pactl, s)
  | .pacnt => (t.pacnt, s)
  | .spcr => (s.io.spi.spcr, s)
  | .spsr => (s.io.spi.spsr, s.setSpi s.io.spi.armAll)
  | .spdr => (s.io.spi.rx, s.setSpi (s.io.spi.clearArmed 0xC0))
  | .baud => (s.io.sci.baud, s)
  | .sccr1 => (s.io.sci.sccr1, s)
  | .sccr2 => (s.io.sci.sccr2, s)
  | .scsr => (s.io.sci.scsr, s.setSci s.io.sci.armAll)
  | .scdr => (s.io.sci.rx, s.setSci (s.io.sci.clearArmed 0x3E))
  | .adctl => (s.io.adc.adctl, s)
  | .adr1 => (s.io.adc.adr1, s)
  | .adr2 => (s.io.adc.adr2, s)
  | .adr3 => (s.io.adc.adr3, s)
  | .adr4 => (s.io.adc.adr4, s)
  | .bprot => (s.io.sys.bprot, s)
  | .eprog => if s.params.device = .mc68hc711e20 then (visibleEprog s, s) else freshByte s
  | .option => (s.io.sys.option, s)
  | .coprst => freshByte s
  | .pprog => (s.io.sys.pprog, s)
  | .hprio => (s.io.sys.hprio, s)
  | .init => (s.io.sys.init, s)
  | .test1 => if s.smod then (s.io.sys.test1, s) else freshByte s
  | .config => (s.io.sys.config, s)

/-! Writes. -/

/-- A write of TMSK2: the enables, and PR while it can be written; a changed PR restarts the prescaler (R63, R461,
R500). -/
def writeTmsk2 (v : Byte) (s : State) : State :=
  let t := s.io.timer
  let pr := if s.protectedOpen s.io.sys.prWritten then v &&& 0x03 else t.tmsk2 &&& 0x03
  let s := s.setTimer { t with
    tmsk2 := (v &&& 0xF0) ||| pr
    prescale := if pr = t.tmsk2 &&& 0x03 then t.prescale else 0 }
  s.setSys { s.io.sys with prWritten := s.latchAfter s.io.sys.prWritten }

/-- A write of CFORC: the pin actions of the compares written 1, at once and without their flags (R52, R462). That FOC5
does nothing while PACTL.I4/O5 = 1, OC5 not being enabled, is the model's choice (notes/assumptions/20.md). -/
def writeCforc (v : Byte) (s : State) : State :=
  let forced (k : Nat) : Option Nat := if bit v k then some 0 else none
  let w : OcTimes :=
    { oc1 := forced 7, oc2 := forced 6, oc3 := forced 5, oc4 := forced 4
      oc5 := if oc5Enabled s.io.timer then forced 3 else none }
  if v &&& 0xF8 = 0 then s else driveOcPins w s

/-- A write of BPROT: bits can be set at any time, and cleared only while it is open (R77, R500). -/
def writeBprot (v : Byte) (s : State) : State :=
  let g := s.io.sys
  s.setSys { g with
    bprot := if s.protectedOpen g.bprotWritten then v &&& 0x1F else (g.bprot ||| v) &&& 0x1F
    bprotWritten := s.latchAfter g.bprotWritten }

/-- A write of EPROG, on the MC68HC711E20 only. ELAT cannot be written while PGM = 1, PGM only while ELAT = 1, MBE only in
the special modes; the test bits EXCOL, EXROW, T1 and T0 keep reading 0 (R78). -/
def writeEprog (v : Byte) (s : State) : State :=
  let g := s.io.sys
  if s.params.device = .mc68hc711e20 then
    let elat := if bit g.eprog 0 then bit g.eprog 5 else bit v 5
    let pgm := if bit g.eprog 5 then bit v 0 else bit g.eprog 0
    let mbe := if s.smod then bit v 7 else bit g.eprog 7
    s.setSys { g with eprog := flagBit 7 mbe ||| flagBit 5 elat ||| flagBit 0 pgm }
  else s

/-- A write of OPTION: ADPU, CSEL and CME at any time, IRQE, DLY and CR while they are open (R80, R500); ADPU = 0 powers
the A/D converter down (R475). -/
def writeOption (v : Byte) (s : State) : State :=
  let g := s.io.sys
  let written := s.setSys { g with
    option := merge (if s.protectedOpen g.optionWritten then 0xFB else 0xC8) g.option v &&& 0xFB
    optionWritten := s.latchAfter g.optionWritten }
  written.setAdc (s.io.adc.power (bit v 7))

/-- A write of COPRST: $55 arms, then $AA restarts the COP (R81, R467). -/
def writeCoprst (v : Byte) (s : State) : State :=
  let g := s.io.sys
  if v = 0x55 then s.setSys { g with copArmed := true }
  else if v = 0xAA ∧ g.copArmed then s.setSys { g with copArmed := false, copCount := 0 }
  else s

/-- The bits of PPROG a device has: ELAT on the MC68HC711E9 only (R82). -/
def pprogMask (d : Device) : Byte := if d = .mc68hc711e9 then 0xFF else 0xDF

/-- A write of HPRIO, each bit under its own rule (R83, R501, R502). -/
def writeHprio (v : Byte) (s : State) : State :=
  let g := s.io.sys
  let mdaOpen := s.smod || !g.mdaWritten
  let mask : Byte := (if s.smod then 0xC0 else 0) ||| flagBit 5 mdaOpen ||| flagBit 4 (!g.irvWritten) |||
    (if s.cpu.ccr.i then 0x0F else 0)
  s.setSys { g with
    hprio := merge mask g.hprio v
    mdaWritten := g.mdaWritten || !s.smod
    irvWritten := true }

/-- A write of INIT while it is open (R84, R500). -/
def writeInit (v : Byte) (s : State) : State :=
  let g := s.io.sys
  s.setSys { g with
    init := if s.protectedOpen g.initWritten then v else g.init
    initWritten := s.latchAfter g.initWritten }

/-- A write of SCDR: the second step of clearing TDRE and TC, and a new character in the transmit buffer (R74, R471). That an
armed TC is cleared also where the write starts nothing, because TE = 0 or because TDRE is 1 and not armed, and does not set
again while nothing is sent, is the model's choice (notes/assumptions/24.md). -/
def writeScdr (v : Byte) (s : State) : State := s.setSci { s.io.sci.clearArmed 0xC0 with tx := v }

/-- BAUD: SCP2 is implemented on the E20 parts only (R70). TCLR and RCKB, of which the spec gives the test names alone,
are stored and have no effect (notes/assumptions/43.md). -/
def baudMask (d : Device) : Byte := if isE20 d then 0xFF else 0xBF

/-- The high half replaced (R40). -/
def setHi (w : Word) (v : Byte) : Word := join v (lo w)

/-- The low half replaced. -/
def setLo (w : Word) (v : Byte) : Word := join (hi w) v

/-- The effect of a write that is not refused (R41 to R87, R151). Unimplemented bits keep reading 0, and a write to a
read-only or reserved register changes nothing (R40). The model's choices: a write of PIOC that leaves interlocked handshake
leaves STRB as it is (notes/assumptions/23.md), and a write of PACNT sets no PAOVF, whatever it changes
(notes/assumptions/46.md). -/
def writeRegister (r : IoReg) (v : Byte) (s : State) : State :=
  let t := s.io.timer
  let p := s.io.ports
  match r with
  | .porta => s.setPorts { p with porta := v }
  | .reserved => s
  | .pioc => s.setPorts { p with pioc := merge 0x7F p.pioc v }
  | .portc => s.setPorts { p with portc := v }
  | .portb => writePortB v s
  | .portcl => writePortCl v s
  | .ddrc => s.setPorts { p with ddrc := v }
  | .portd => s.setPorts { p with portd := v &&& 0x3F }
  | .ddrd => s.setPorts { p with ddrd := v &&& 0x3F }
  | .porte => s
  | .cforc => writeCforc v s
  | .oc1m => s.setTimer { t with oc1m := v &&& 0xF8 }
  | .oc1d => s.setTimer { t with oc1d := v &&& 0xF8 }
  | .tcntHi => s
  | .tcntLo => s
  | .tic1Hi => s
  | .tic1Lo => s
  | .tic2Hi => s
  | .tic2Lo => s
  | .tic3Hi => s
  | .tic3Lo => s
  | .toc1Hi => s.setTimer { t with toc1 := setHi t.toc1 v }
  | .toc1Lo => s.setTimer { t with toc1 := setLo t.toc1 v }
  | .toc2Hi => s.setTimer { t with toc2 := setHi t.toc2 v }
  | .toc2Lo => s.setTimer { t with toc2 := setLo t.toc2 v }
  | .toc3Hi => s.setTimer { t with toc3 := setHi t.toc3 v }
  | .toc3Lo => s.setTimer { t with toc3 := setLo t.toc3 v }
  | .toc4Hi => s.setTimer { t with toc4 := setHi t.toc4 v }
  | .toc4Lo => s.setTimer { t with toc4 := setLo t.toc4 v }
  | .ti4o5Hi => s.setTimer { t with ti4o5 := setHi t.ti4o5 v }
  | .ti4o5Lo => s.setTimer { t with ti4o5 := setLo t.ti4o5 v }
  | .tctl1 => s.setTimer { t with tctl1 := v }
  | .tctl2 => s.setTimer { t with tctl2 := v }
  | .tmsk1 => s.setTimer { t with tmsk1 := v }
  | .tflg1 => s.setTimer { t with tflg1 := t.tflg1 &&& ~~~v }
  | .tmsk2 => writeTmsk2 v s
  | .tflg2 => s.setTimer { t with tflg2 := t.tflg2 &&& ~~~v &&& 0xF0 }
  | .pactl => s.setTimer { t with pactl := v }
  | .pacnt => s.setTimer { t with pacnt := v }
  | .spcr => s.setSpi (s.io.spi.writeControl v)
  | .spsr => s
  | .spdr => s.setSpi (s.io.spi.writeData v)
  | .baud => s.setSci { s.io.sci with baud := v &&& baudMask s.params.device }
  | .sccr1 => s.setSci { s.io.sci with sccr1 := v &&& 0xD8 }
  | .sccr2 => s.setSci (s.io.sci.writeControl v)
  | .scsr => s
  | .scdr => writeScdr v s
  | .adctl => s.setAdc (s.io.adc.start v (bit s.io.sys.option 7))
  | .adr1 => s
  | .adr2 => s
  | .adr3 => s
  | .adr4 => s
  | .bprot => writeBprot v s
  | .eprog => writeEprog v s
  | .option => writeOption v s
  | .coprst => writeCoprst v s
  | .pprog => s.setSys { s.io.sys with pprog := v &&& pprogMask s.params.device }
  | .hprio => writeHprio v s
  | .init => writeInit v s
  | .test1 => s
  | .config => s

/-- The writes the spec refuses: those that start the programming of non-volatile memory, which it leaves out, and those
to the factory test facilities (R55, R82, R85, R150, D12, D25, U15, U17; notes/assumptions/27.md). -/
def registerRefusal (r : IoReg) (v : Byte) (s : State) : Option Refusal :=
  match r with
  | .tcntHi => if s.smod then some .usesTestFacility else none
  | .tcntLo => if s.smod then some .usesTestFacility else none
  | .test1 => if s.smod then some .usesTestFacility else none
  | .pprog => if v &&& pprogMask s.params.device &&& 0x23 = 0 then none else some .programsNonVolatile
  | .eprog =>
    if s.params.device = .mc68hc711e20 then
      if (bit v 5 ∧ ¬ bit s.io.sys.eprog 0) ∨ (bit v 0 ∧ bit s.io.sys.eprog 5) then some .programsNonVolatile
      else if s.smod ∧ v &&& 0x1E ≠ 0 then some .usesTestFacility
      else none
    else none
  | _ => none

end Sys2Proof.Machine
end

