-- ==== Sys2Proof/Machine/Ops.lean ====
section
/-! DEFINITION. The named operations over memory and registers: the byte and 16-bit accesses of R15, the stack of R134,
taking an exception (R440 to R446) and returning from one (R448). -/

namespace Sys2Proof.Machine

/-- One operation after another that may be refused. -/
def andThen (o : Result) (f : State → Result) : Result :=
  match o with
  | .next s => f s
  | .fault r => .fault r
  | .refused r => .refused r

/-- `MemRead(addr, 1)`: the byte and the state after the read's side effects (R15, R136 to R151). -/
def readByte (s : State) (addr : Word) : Byte × State :=
  match resolve s addr with
  | .register off => readRegister (registerAt off) s
  | .ram k => (Memory.read s.mem.ram k, s)
  | .bootRom n => (Memory.read s.mem.bootRom n, s)
  | .eeprom k => (Memory.read s.mem.eeprom k, s)
  | .rom n => (Memory.read s.mem.rom n, s)
  | .ext n .ram => (Memory.read s.mem.ext n, s)
  | .ext n .rom => (Memory.read s.mem.ext n, s)
  | .ext _ .device => freshByte s
  | .nothing => freshByte s

/-- Two bytes, the lower address first, with what `between` says happens between the two accesses (R130, R135). -/
def readPair (between : State → State) (s : State) (addr : Word) : Word × State :=
  let h := readByte s addr
  let l := readByte (between h.2) (addr + 1)
  (join h.1 l.1, l.2)

/-- `MemRead(addr, 2)`: the second byte one E cycle later (R15, R135, R507). -/
def readWord (s : State) (addr : Word) : Word × State := readPair beat s addr

/-- The byte a read would return, without its side effects: how a statement looks at memory. -/
def peek (s : State) (addr : Word) : Byte := (readByte s addr).1

/-- The effect of storing a byte: RAM and external RAM hold it, a register does what R151 says, everything else ignores
it (R137, R144, R150). -/
def store (s : State) (addr : Word) (v : Byte) : State :=
  match resolve s addr with
  | .register off => writeRegister (registerAt off) v s
  | .ram k => s.setMem { s.mem with ram := Memory.write s.mem.ram k v }
  | .bootRom _ => s
  | .eeprom _ => s
  | .rom _ => s
  | .ext n .ram => s.setMem { s.mem with ext := Memory.write s.mem.ext n v }
  | .ext _ .rom => s
  | .ext _ .device => s
  | .nothing => s

/-- The refusal of a store, if the spec refuses it. -/
def storeRefusal (s : State) (addr : Word) (v : Byte) : Option Refusal :=
  match resolve s addr with
  | .register off => registerRefusal (registerAt off) v s
  | .ram _ => none
  | .bootRom _ => none
  | .eeprom _ => none
  | .rom _ => none
  | .ext _ _ => none
  | .nothing => none

/-- `MemWrite(addr, 1, v)` (R15). -/
def writeByte (s : State) (addr : Word) (v : Byte) : Result :=
  match storeRefusal s addr v with
  | some r => .refused r
  | none => .next (store s addr v)

/-- One access and then, a beat later, the rest of the instruction, which a reset that became due by then abandons (R155,
R490). -/
def andThenBeat (o : Result) (f : State → Result) : Result :=
  andThen o fun t => if (beat t).resetDue then .next (beat t) else f (beat t)

/-- Bytes stored one after the other (R155). -/
def writeAll : List (Word × Byte) → State → Result
  | [], s => .next s
  | [(a, v)], s => writeByte s a v
  | (a, v) :: p :: l, s => andThenBeat (writeByte s a v) (writeAll (p :: l))

/-- `MemWrite(addr, 2, v)`: the high byte at the lower address first (R15, R135). -/
def writeWord (s : State) (addr : Word) (v : Word) : Result := writeAll [(addr, hi v), (addr + 1, lo v)] s

/-! The stack (R134). -/

/-- Where bytes pushed one after the other lie: the first at SP, each of the others below the one before. -/
def stackCells (sp : Word) : List Byte → List (Word × Byte)
  | [] => []
  | b :: l => (sp, b) :: stackCells (sp - 1) l

/-- `push8` of each byte: it is stored at SP, and SP is decremented; nothing looks at SP before the last is stored. -/
def pushAll (l : List Byte) (s : State) : Result :=
  andThen (writeAll (stackCells s.cpu.sp l) s) fun t => .next (t.setSp (t.cpu.sp - BitVec.ofNat 16 l.length))

/-- `push8(v)`. -/
def push8 (v : Byte) (s : State) : Result := pushAll [v] s

/-- `push16(v)`: the low byte first, at the higher address. -/
def push16 (v : Word) (s : State) : Result := pushAll [lo v, hi v] s

/-- `pull8()`. -/
def pull8 (s : State) : Byte × State := readByte (s.setSp (s.cpu.sp + 1)) (s.cpu.sp + 1)

/-- `pull16()`: the high byte first. -/
def pull16 (s : State) : Word × State :=
  let h := pull8 s
  let l := pull8 (beat h.2)
  (join h.1 l.1, l.2)

/-! Taking an exception and returning from one. -/

/-- The nine-byte frame: RTN, IY, IX, A, B and the CCR before any mask bit changes (R440). -/
def pushFrame (rtn : Word) (s : State) : Result :=
  let c := s.cpu
  pushAll [lo rtn, hi rtn, lo c.iy, hi c.iy, lo c.ix, hi c.ix, c.a, c.b, c.ccr.toByte] s

/-- The tail of the entry sequence: I is set, and X for XIRQ; PC is loaded from the vector; the CPU runs (R440, R445,
R446). -/
def enterVector (offset : Word) (setX : Bool) (s : State) : State :=
  let masked := (s.setCcr { s.cpu.ccr with i := true, x := s.cpu.ccr.x || setX }).setRun .running
  let v := readWord masked (masked.vectorBase + offset)
  v.2.setPc v.1

/-- The common entry sequence (R440). -/
def takeException (rtn offset : Word) (setX : Bool) (s : State) : Result :=
  andThen (pushFrame rtn s) fun t => .next (enterVector offset setX (beat t))

/-- `raise IllegalOpcode`: RTN is the address of the illegal opcode's first byte (R442). -/
def raiseIllegalOpcode (pcInstr : Word) (s : State) : Result := takeException pcInstr 0xF8 false s

/-- `raise SWI`: RTN is the address of the byte after the opcode (R419, R441). -/
def raiseSwi (s : State) : Result := takeException s.cpu.pc 0xF6 false s

/-- The return: CCR, B, A, IX, IY and PC are pulled in that order (R414, R448). -/
def returnFromException (s : State) : State :=
  let c := pull8 s
  let b := pull8 (beat (c.2.setCcr (c.2.cpu.ccr.load c.1)))
  let a := pull8 (beat (b.2.setB b.1))
  let x := pull16 (beat (a.2.setA a.1))
  let y := pull16 (beat (x.2.setIx x.1))
  let p := pull16 (beat (y.2.setIy y.1))
  p.2.setPc p.1

end Sys2Proof.Machine
end

