-- ==== Sys2Proof/Machine/Operands.lean ====
section
/-! DEFINITION. The operand forms (R172 to R178, R193): every operand byte has been fetched before any of these reads
data, and each reads its operand exactly once. -/

namespace Sys2Proof.Machine

/-- `ea`, the effective address, modulo 2^16 (R133, R174 to R177). -/
def effectiveAddress (m : Ea) (s : State) : Word :=
  match m with
  | .dir dd => zext16 dd
  | .ext a => a
  | .indX ff => s.cpu.ix + zext16 ff
  | .indY ff => s.cpu.iy + zext16 ff

/-- `opnd8` (R193). -/
def operand8 (o : Src8) (s : State) : Byte × State :=
  match o with
  | .imm ii => (ii, s)
  | .mem m => readByte s (effectiveAddress m s)

/-- `opnd16` (R193). -/
def operand16 (o : Src16) (s : State) : Word × State :=
  match o with
  | .imm v => (v, s)
  | .mem m => readWord s (effectiveAddress m s)

/-- `target`: PC, past the instruction, plus the signed offset (R178, R370). -/
def branchTarget (rr : Byte) (s : State) : Word := s.cpu.pc + sext16 rr

end Sys2Proof.Machine
end

