-- ==== Sys2Proof/Machine/Forms.lean ====
section
/-! DEFINITION. The shapes the instructions share: an accumulator with an 8-bit operand, a 16-bit register with a 16-bit
operand, one accumulator, one memory byte read and written (R160). -/

namespace Sys2Proof.Machine

/-- accumulator <- f(accumulator, opnd8), with the flags of f. -/
def accumulate (r : Acc) (f : Byte → Byte → Ccr → Byte × Ccr) (o : Src8) (s : State) : Result :=
  let m := operand8 o s
  let v := f (m.2.acc r) m.1 m.2.cpu.ccr
  .next ((m.2.setAcc r v.1).setCcr v.2)

/-- The flags of f(accumulator, opnd8), the result discarded. -/
def compare8 (r : Acc) (f : Byte → Byte → Ccr → Byte × Ccr) (o : Src8) (s : State) : Result :=
  let m := operand8 o s
  .next (m.2.setCcr (f (m.2.acc r) m.1 m.2.cpu.ccr).2)

/-- accumulator <- f(accumulator), with the flags of f. -/
def unary (r : Acc) (f : Byte → Ccr → Byte × Ccr) (s : State) : Result :=
  let v := f (s.acc r) s.cpu.ccr
  .next ((s.setAcc r v.1).setCcr v.2)

/-- D <- f(D, opnd16), with the flags of f. -/
def accumulateD (f : Word → Word → Ccr → Word × Ccr) (o : Src16) (s : State) : Result :=
  let m := operand16 o s
  let v := f m.2.d m.1 m.2.cpu.ccr
  .next ((m.2.setD v.1).setCcr v.2)

/-- The flags of sub16(register, opnd16), the result discarded. -/
def compare16 (reg : State → Word) (o : Src16) (s : State) : Result :=
  let m := operand16 o s
  .next (m.2.setCcr (sub16 (reg m.2) m.1 m.2.cpu.ccr).2)

/-- The read-modify-write sequence: one read, one write of f of the byte, whatever the result. No interrupt comes between
the two, and the agents may move there (R157, R160). -/
def readModifyWrite (m : Ea) (f : Byte → Ccr → Byte × Ccr) (s : State) : Result :=
  let a := effectiveAddress m s
  let b := readByte s a
  let v := f b.1 b.2.cpu.ccr
  andThenBeat (.next b.2) fun t => andThen (writeByte t a v.1) fun u => .next (u.setCcr v.2)

/-- register <- opnd8, N and Z from it, V = 0. -/
def load8 (set : State → Byte → State) (o : Src8) (s : State) : Result :=
  let m := operand8 o s
  .next ((set m.2 m.1).setCcr (nzv0 m.1 m.2.cpu.ccr))

/-- register <- opnd16, N and Z from it, V = 0. -/
def load16 (set : State → Word → State) (o : Src16) (s : State) : Result :=
  let m := operand16 o s
  .next ((set m.2 m.1).setCcr (nzv0Word m.1 m.2.cpu.ccr))

/-- A byte is stored at the effective address, N and Z from it, V = 0. -/
def store8 (v : Byte) (m : Ea) (s : State) : Result :=
  andThen (writeByte s (effectiveAddress m s) v) fun t => .next (t.setCcr (nzv0 v t.cpu.ccr))

/-- A 16-bit value is stored at the effective address, N and Z from it, V = 0. -/
def store16 (v : Word) (m : Ea) (s : State) : Result :=
  andThen (writeWord s (effectiveAddress m s) v) fun t => .next (t.setCcr (nzv0Word v t.cpu.ccr))

/-- PC <- target if the condition holds; PC is already past the branch (R370). -/
def branch (taken : Bool) (rr : Byte) (s : State) : Result :=
  .next (if taken then s.setPc (branchTarget rr s) else s)

/-- A branch on the byte at the effective address, read once (R386, R388). -/
def branchOnByte (test : Byte → Bool) (m : Ea) (rr : Byte) (s : State) : Result :=
  let b := readByte s (effectiveAddress m s)
  branch (test b.1) rr b.2

end Sys2Proof.Machine
end

