-- ==== Sys2Proof/Machine/Arithmetic.lean ====
section
/-! DEFINITION. Arithmetic, compares, increments, multiply and divide (41_arithmetic.md, R260 to R301). -/

namespace Sys2Proof.Machine

/-- `add8` without carry in. -/
def addNoCarry (x m : Byte) (c : Ccr) : Byte × Ccr := add8 x m false c

/-- `add8` with C as carry in. -/
def addCarry (x m : Byte) (c : Ccr) : Byte × Ccr := add8 x m c.c c

/-- `sub8` without borrow in. -/
def subNoBorrow (x m : Byte) (c : Ccr) : Byte × Ccr := sub8 x m false c

/-- `sub8` with C as borrow in. -/
def subBorrow (x m : Byte) (c : Ccr) : Byte × Ccr := sub8 x m c.c c

/-- R260. -/
def execAba (s : State) : Result := unary .a (fun a c => addNoCarry a s.cpu.b c) s

/-- R261. -/
def execAbx (s : State) : Result := .next (s.setIx (s.cpu.ix + zext16 s.cpu.b))

/-- R262. -/
def execAby (s : State) : Result := .next (s.setIy (s.cpu.iy + zext16 s.cpu.b))

/-- R263. -/
def execAdca (o : Src8) (s : State) : Result := accumulate .a addCarry o s

/-- R264. -/
def execAdcb (o : Src8) (s : State) : Result := accumulate .b addCarry o s

/-- R265. -/
def execAdda (o : Src8) (s : State) : Result := accumulate .a addNoCarry o s

/-- R266. -/
def execAddb (o : Src8) (s : State) : Result := accumulate .b addNoCarry o s

/-- R267. -/
def execAddd (o : Src16) (s : State) : Result := accumulateD add16 o s

/-- R268. -/
def execCba (s : State) : Result := .next (s.setCcr (subNoBorrow s.cpu.a s.cpu.b s.cpu.ccr).2)

/-- R269. -/
def execCmpa (o : Src8) (s : State) : Result := compare8 .a subNoBorrow o s

/-- R270. -/
def execCmpb (o : Src8) (s : State) : Result := compare8 .b subNoBorrow o s

/-- R271. -/
def execCpd (o : Src16) (s : State) : Result := compare16 State.d o s

/-- R272. -/
def execCpx (o : Src16) (s : State) : Result := compare16 (fun t => t.cpu.ix) o s

/-- R273. -/
def execCpy (o : Src16) (s : State) : Result := compare16 (fun t => t.cpu.iy) o s

/-- The correction table of DAA: what is added to A and C after, none in no row of the table (R274). -/
def daaCorrection (c h : Bool) (high low : Nat) : Option (Byte × Bool) :=
  match c, h with
  | false, false =>
    if high ≤ 9 ∧ low ≤ 9 then some (0x00, false)
    else if high ≤ 8 ∧ 10 ≤ low then some (0x06, false)
    else if 10 ≤ high ∧ low ≤ 9 then some (0x60, true)
    else if 9 ≤ high ∧ 10 ≤ low then some (0x66, true)
    else none
  | false, true =>
    if high ≤ 9 ∧ low ≤ 3 then some (0x06, false)
    else if 10 ≤ high ∧ low ≤ 3 then some (0x66, true)
    else none
  | true, false =>
    if high ≤ 2 ∧ low ≤ 9 then some (0x60, true)
    else if high ≤ 2 ∧ 10 ≤ low then some (0x66, true)
    else none
  | true, true => if high ≤ 3 ∧ low ≤ 3 then some (0x66, true) else none

/-- R274. V is a free value; outside the table A, N, Z, V and C are (D15, notes/assumptions/17.md). -/
def execDaa (s : State) : Result :=
  let f := s.cpu.ccr
  let d := s.draws
  match daaCorrection f.c f.h (s.cpu.a.toNat / 16) (s.cpu.a.toNat % 16) with
  | some (add, carry) =>
    let r := s.cpu.a + add
    .next (((s.setA r).setCcr { nz8 r f with v := Config.freeBit d, c := carry }).drawn 1)
  | none =>
    .next (((s.setA (Config.freeByte d)).setCcr
      { f with
        n := Config.freeBit d, z := Config.freeBit (d + 1), v := Config.freeBit (d + 2)
        c := Config.freeBit (d + 3) }).drawn 4)

/-- R275. -/
def execDec (m : Ea) (s : State) : Result := readModifyWrite m dec8 s

/-- R276. -/
def execDeca (s : State) : Result := unary .a dec8 s

/-- R277. -/
def execDecb (s : State) : Result := unary .b dec8 s

/-- R278. -/
def execDes (s : State) : Result := .next (s.setSp (s.cpu.sp - 1))

/-- R279: Z alone is written. -/
def execDex (s : State) : Result :=
  .next ((s.setIx (s.cpu.ix - 1)).setCcr { s.cpu.ccr with z := s.cpu.ix - 1 = 0 })

/-- R280. -/
def execDey (s : State) : Result :=
  .next ((s.setIy (s.cpu.iy - 1)).setCcr { s.cpu.ccr with z := s.cpu.iy - 1 = 0 })

/-- The end of a division that gives no quotient: IX = $FFFF, D any value (R281, R282, D16, notes/assumptions/18.md). -/
def noQuotient (v c : Bool) (s : State) : State :=
  (((s.setD (Config.freeWord s.draws)).setIx 0xFFFF).setCcr { s.cpu.ccr with z := false, v := v, c := c }).drawn 1

/-- The end of a division: quotient in IX, remainder in D (R281, R282). -/
def quotient (numerator denominator : Nat) (s : State) : State :=
  let q := BitVec.ofNat 16 (numerator / denominator)
  ((s.setD (BitVec.ofNat 16 (numerator % denominator))).setIx q).setCcr
    { s.cpu.ccr with z := q = 0, v := false, c := false }

/-- R281: the quotient is a fraction, the numerator D * 65536. -/
def execFdiv (s : State) : Result :=
  .next (if s.cpu.ix = 0 then noQuotient true true s
    else if s.cpu.ix.toNat ≤ s.d.toNat then noQuotient true false s
    else quotient (s.d.toNat * 65536) s.cpu.ix.toNat s)

/-- R282. -/
def execIdiv (s : State) : Result :=
  .next (if s.cpu.ix = 0 then noQuotient false true s else quotient s.d.toNat s.cpu.ix.toNat s)

/-- R283. -/
def execInc (m : Ea) (s : State) : Result := readModifyWrite m inc8 s

/-- R284. -/
def execInca (s : State) : Result := unary .a inc8 s

/-- R285. -/
def execIncb (s : State) : Result := unary .b inc8 s

/-- R286. -/
def execIns (s : State) : Result := .next (s.setSp (s.cpu.sp + 1))

/-- R287: Z alone is written. -/
def execInx (s : State) : Result :=
  .next ((s.setIx (s.cpu.ix + 1)).setCcr { s.cpu.ccr with z := s.cpu.ix + 1 = 0 })

/-- R288. -/
def execIny (s : State) : Result :=
  .next ((s.setIy (s.cpu.iy + 1)).setCcr { s.cpu.ccr with z := s.cpu.iy + 1 = 0 })

/-- R289: unsigned, C from bit 7 of the product. -/
def execMul (s : State) : Result :=
  let p := BitVec.ofNat 16 (s.cpu.a.toNat * s.cpu.b.toNat)
  .next ((s.setD p).setCcr { s.cpu.ccr with c := p.getLsbD 7 })

/-- R290. -/
def execNeg (m : Ea) (s : State) : Result := readModifyWrite m neg8 s

/-- R291. -/
def execNega (s : State) : Result := unary .a neg8 s

/-- R292. -/
def execNegb (s : State) : Result := unary .b neg8 s

/-- R293. -/
def execSba (s : State) : Result := unary .a (fun a c => subNoBorrow a s.cpu.b c) s

/-- R294. -/
def execSbca (o : Src8) (s : State) : Result := accumulate .a subBorrow o s

/-- R295. -/
def execSbcb (o : Src8) (s : State) : Result := accumulate .b subBorrow o s

/-- R296. -/
def execSuba (o : Src8) (s : State) : Result := accumulate .a subNoBorrow o s

/-- R297. -/
def execSubb (o : Src8) (s : State) : Result := accumulate .b subNoBorrow o s

/-- R298. -/
def execSubd (o : Src16) (s : State) : Result := accumulateD sub16 o s

/-- R299: one read, no write. -/
def execTst (m : Ea) (s : State) : Result :=
  let b := readByte s (effectiveAddress m s)
  .next (b.2.setCcr (testFlags b.1 b.2.cpu.ccr))

/-- R300. -/
def execTsta (s : State) : Result := .next (s.setCcr (testFlags s.cpu.a s.cpu.ccr))

/-- R301. -/
def execTstb (s : State) : Result := .next (s.setCcr (testFlags s.cpu.b s.cpu.ccr))

end Sys2Proof.Machine
end

