-- ==== Sys2Proof/Machine/Branch.lean ====
section
/-! DEFINITION. Branches, bit branches, jumps and subroutines (43_branch_jump.md, R370 to R396). PC is past the
instruction when a meaning starts (R16). -/

namespace Sys2Proof.Machine

/-- R371. -/
def execBcc (rr : Byte) (s : State) : Result := branch (!s.cpu.ccr.c) rr s

/-- R372. -/
def execBcs (rr : Byte) (s : State) : Result := branch s.cpu.ccr.c rr s

/-- R373. -/
def execBeq (rr : Byte) (s : State) : Result := branch s.cpu.ccr.z rr s

/-- R374. -/
def execBge (rr : Byte) (s : State) : Result := branch (s.cpu.ccr.n == s.cpu.ccr.v) rr s

/-- R375. -/
def execBgt (rr : Byte) (s : State) : Result := branch (!(s.cpu.ccr.z || s.cpu.ccr.n != s.cpu.ccr.v)) rr s

/-- R376. -/
def execBhi (rr : Byte) (s : State) : Result := branch (!(s.cpu.ccr.c || s.cpu.ccr.z)) rr s

/-- R378. -/
def execBle (rr : Byte) (s : State) : Result := branch (s.cpu.ccr.z || s.cpu.ccr.n != s.cpu.ccr.v) rr s

/-- R380. -/
def execBls (rr : Byte) (s : State) : Result := branch (s.cpu.ccr.c || s.cpu.ccr.z) rr s

/-- R381. -/
def execBlt (rr : Byte) (s : State) : Result := branch (s.cpu.ccr.n != s.cpu.ccr.v) rr s

/-- R382. -/
def execBmi (rr : Byte) (s : State) : Result := branch s.cpu.ccr.n rr s

/-- R383. -/
def execBne (rr : Byte) (s : State) : Result := branch (!s.cpu.ccr.z) rr s

/-- R384. -/
def execBpl (rr : Byte) (s : State) : Result := branch (!s.cpu.ccr.n) rr s

/-- R385. -/
def execBra (rr : Byte) (s : State) : Result := branch true rr s

/-- R386. -/
def execBrclr (m : Ea) (mm rr : Byte) (s : State) : Result := branchOnByte (fun b => b &&& mm = 0) m rr s

/-- R387. -/
def execBrn (rr : Byte) (s : State) : Result := branch false rr s

/-- R388. -/
def execBrset (m : Ea) (mm rr : Byte) (s : State) : Result := branchOnByte (fun b => ~~~b &&& mm = 0) m rr s

/-- The return address is pushed, then PC is loaded (R389, R393, R395). -/
def call (target : Word) (s : State) : Result := andThen (push16 s.cpu.pc s) fun t => .next (t.setPc target)

/-- R389. -/
def execBsr (rr : Byte) (s : State) : Result := call (branchTarget rr s) s

/-- R390. -/
def execBvc (rr : Byte) (s : State) : Result := branch (!s.cpu.ccr.v) rr s

/-- R391. -/
def execBvs (rr : Byte) (s : State) : Result := branch s.cpu.ccr.v rr s

/-- R392: memory at the effective address is not read. -/
def execJmp (m : Ea) (s : State) : Result := .next (s.setPc (effectiveAddress m s))

/-- R393. -/
def execJsr (m : Ea) (s : State) : Result := call (effectiveAddress m s) s

/-- R394. -/
def execRts (s : State) : Result := .next ((pull16 s).2.setPc (pull16 s).1)

end Sys2Proof.Machine
end

