-- ==== Sys2Proof/Machine/LoadStore.lean ====
section
/-! DEFINITION. Loads, stores, clears, stack and register transfers (40_load_store_transfer.md, R200 to R232). -/

namespace Sys2Proof.Machine

/-- R200. The byte is read before $00 is written (R160, D30). -/
def execClr (m : Ea) (s : State) : Result := readModifyWrite m (fun _ c => (0, clearFlags c)) s

/-- R201. -/
def execClra (s : State) : Result := unary .a (fun _ c => (0, clearFlags c)) s

/-- R202. -/
def execClrb (s : State) : Result := unary .b (fun _ c => (0, clearFlags c)) s

/-- R203. -/
def execLdaa (o : Src8) (s : State) : Result := load8 State.setA o s

/-- R204. -/
def execLdab (o : Src8) (s : State) : Result := load8 State.setB o s

/-- R205. -/
def execLdd (o : Src16) (s : State) : Result := load16 State.setD o s

/-- R206. -/
def execLds (o : Src16) (s : State) : Result := load16 State.setSp o s

/-- R207. -/
def execLdx (o : Src16) (s : State) : Result := load16 State.setIx o s

/-- R208. -/
def execLdy (o : Src16) (s : State) : Result := load16 State.setIy o s

/-- R209. -/
def execPsha (s : State) : Result := push8 s.cpu.a s

/-- R210. -/
def execPshb (s : State) : Result := push8 s.cpu.b s

/-- R211. -/
def execPshx (s : State) : Result := push16 s.cpu.ix s

/-- R212. -/
def execPshy (s : State) : Result := push16 s.cpu.iy s

/-- R213. -/
def execPula (s : State) : Result := .next ((pull8 s).2.setA (pull8 s).1)

/-- R214. -/
def execPulb (s : State) : Result := .next ((pull8 s).2.setB (pull8 s).1)

/-- R215. -/
def execPulx (s : State) : Result := .next ((pull16 s).2.setIx (pull16 s).1)

/-- R216. -/
def execPuly (s : State) : Result := .next ((pull16 s).2.setIy (pull16 s).1)

/-- R217. -/
def execStaa (m : Ea) (s : State) : Result := store8 s.cpu.a m s

/-- R218. -/
def execStab (m : Ea) (s : State) : Result := store8 s.cpu.b m s

/-- R219. -/
def execStd (m : Ea) (s : State) : Result := store16 s.d m s

/-- R220. -/
def execSts (m : Ea) (s : State) : Result := store16 s.cpu.sp m s

/-- R221. -/
def execStx (m : Ea) (s : State) : Result := store16 s.cpu.ix m s

/-- R222. -/
def execSty (m : Ea) (s : State) : Result := store16 s.cpu.iy m s

/-- R223. -/
def execTab (s : State) : Result := .next ((s.setB s.cpu.a).setCcr (nzv0 s.cpu.a s.cpu.ccr))

/-- R224. When I goes from 1 to 0 the latitude of R96 applies. -/
def execTap (s : State) : Result :=
  let c := s.cpu.ccr.load s.cpu.a
  .next ((s.setCcr c).setICleared (s.cpu.ccr.i && !c.i))

/-- R225. -/
def execTba (s : State) : Result := .next ((s.setA s.cpu.b).setCcr (nzv0 s.cpu.b s.cpu.ccr))

/-- R226. -/
def execTpa (s : State) : Result := .next (s.setA s.cpu.ccr.toByte)

/-- R227. -/
def execTsx (s : State) : Result := .next (s.setIx (s.cpu.sp + 1))

/-- R228. -/
def execTsy (s : State) : Result := .next (s.setIy (s.cpu.sp + 1))

/-- R229. -/
def execTxs (s : State) : Result := .next (s.setSp (s.cpu.ix - 1))

/-- R230. -/
def execTys (s : State) : Result := .next (s.setSp (s.cpu.iy - 1))

/-- R231. -/
def execXgdx (s : State) : Result := .next ((s.setD s.cpu.ix).setIx s.d)

/-- R232. -/
def execXgdy (s : State) : Result := .next ((s.setD s.cpu.iy).setIy s.d)

end Sys2Proof.Machine
end

