-- ==== Sys2Proof/Machine/Logic.lean ====
section
/-! DEFINITION. Logic, complements, shifts, rotates and bit instructions (42_logic_shift_bit.md, R322 to R355). -/

namespace Sys2Proof.Machine

/-- A logical operation with the flags of `logic8` (R320). -/
def logical (f : Byte → Byte → Byte) (x m : Byte) (c : Ccr) : Byte × Ccr := (f x m, nzv0 (f x m) c)

/-- R322. -/
def execAnda (o : Src8) (s : State) : Result := accumulate .a (logical fun x m => x &&& m) o s

/-- R323. -/
def execAndb (o : Src8) (s : State) : Result := accumulate .b (logical fun x m => x &&& m) o s

/-- R324. -/
def execAsl (m : Ea) (s : State) : Result := readModifyWrite m asl8 s

/-- R325. -/
def execAsla (s : State) : Result := unary .a asl8 s

/-- R326. -/
def execAslb (s : State) : Result := unary .b asl8 s

/-- R327. -/
def execAsld (s : State) : Result :=
  let r := s.d <<< 1
  .next ((s.setD r).setCcr (shiftFlagsWord r (s.d.getLsbD 15) s.cpu.ccr))

/-- R328. -/
def execAsr (m : Ea) (s : State) : Result := readModifyWrite m asr8 s

/-- R329. -/
def execAsra (s : State) : Result := unary .a asr8 s

/-- R330. -/
def execAsrb (s : State) : Result := unary .b asr8 s

/-- R331. -/
def execBclr (m : Ea) (mm : Byte) (s : State) : Result := readModifyWrite m (logical (fun x k => k &&& ~~~x) mm) s

/-- R332. -/
def execBita (o : Src8) (s : State) : Result := compare8 .a (logical fun x m => x &&& m) o s

/-- R333. -/
def execBitb (o : Src8) (s : State) : Result := compare8 .b (logical fun x m => x &&& m) o s

/-- R334. -/
def execBset (m : Ea) (mm : Byte) (s : State) : Result := readModifyWrite m (logical (fun x k => k ||| x) mm) s

/-- R335. -/
def execCom (m : Ea) (s : State) : Result := readModifyWrite m com8 s

/-- R336. -/
def execComa (s : State) : Result := unary .a com8 s

/-- R337. -/
def execComb (s : State) : Result := unary .b com8 s

/-- R338. -/
def execEora (o : Src8) (s : State) : Result := accumulate .a (logical fun x m => x ^^^ m) o s

/-- R339. -/
def execEorb (o : Src8) (s : State) : Result := accumulate .b (logical fun x m => x ^^^ m) o s

/-- R344. -/
def execLsr (m : Ea) (s : State) : Result := readModifyWrite m lsr8 s

/-- R345. -/
def execLsra (s : State) : Result := unary .a lsr8 s

/-- R346. -/
def execLsrb (s : State) : Result := unary .b lsr8 s

/-- R347. -/
def execLsrd (s : State) : Result :=
  let r := s.d >>> 1
  .next ((s.setD r).setCcr (shiftFlagsWord r (s.d.getLsbD 0) s.cpu.ccr))

/-- R348. -/
def execOraa (o : Src8) (s : State) : Result := accumulate .a (logical fun x m => x ||| m) o s

/-- R349. -/
def execOrab (o : Src8) (s : State) : Result := accumulate .b (logical fun x m => x ||| m) o s

/-- R350. -/
def execRol (m : Ea) (s : State) : Result := readModifyWrite m rol8 s

/-- R351. -/
def execRola (s : State) : Result := unary .a rol8 s

/-- R352. -/
def execRolb (s : State) : Result := unary .b rol8 s

/-- R353. -/
def execRor (m : Ea) (s : State) : Result := readModifyWrite m ror8 s

/-- R354. -/
def execRora (s : State) : Result := unary .a ror8 s

/-- R355. -/
def execRorb (s : State) : Result := unary .b ror8 s

end Sys2Proof.Machine
end

