-- ==== Sys2Proof/Machine/System.lean ====
section
/-! DEFINITION. Condition-code, interrupt-control and system instructions (44_system.md, R410 to R421). -/

namespace Sys2Proof.Machine

/-- R410. -/
def execClc (s : State) : Result := .next (s.setCcr { s.cpu.ccr with c := false })

/-- R411. When I goes from 1 to 0 the latitude of R96 applies. -/
def execCli (s : State) : Result := .next ((s.setCcr { s.cpu.ccr with i := false }).setICleared s.cpu.ccr.i)

/-- R412. -/
def execClv (s : State) : Result := .next (s.setCcr { s.cpu.ccr with v := false })

/-- R413. -/
def execNop (s : State) : Result := .next s

/-- R414, R448. -/
def execRti (s : State) : Result := .next (returnFromException s)

/-- R415. -/
def execSec (s : State) : Result := .next (s.setCcr { s.cpu.ccr with c := true })

/-- R416. -/
def execSei (s : State) : Result := .next (s.setCcr { s.cpu.ccr with i := true })

/-- R417. -/
def execSev (s : State) : Result := .next (s.setCcr { s.cpu.ccr with v := true })

/-- Stopping the clocks while the clock monitor is enabled is itself a clock failure (R418, R468). -/
def clocksStopped (s : State) : State :=
  if bit s.io.sys.option 3 && !s.resetsDisabled then s.raiseReset .clockMonitor else s

/-- R418: a no-operation while S = 1. -/
def execStop (s : State) : Result := .next (if s.cpu.ccr.s then s else clocksStopped (s.setRun .stopped))

/-- R419. -/
def execSwi (s : State) : Result := raiseSwi s

/-- R420: in the special modes nothing but a reset ends it; in the normal modes $00 is an illegal opcode, one byte long. -/
def execTest (s : State) : Result :=
  if s.smod then .next (s.setRun .testing) else raiseIllegalOpcode (s.cpu.pc - 1) s

/-- R421: the frame is stacked now, the vector fetched when an interrupt is recognised (R445). -/
def execWai (s : State) : Result := andThen (pushFrame s.cpu.pc s) fun t => .next (t.setRun .waiting)

end Sys2Proof.Machine
end

