-- ==== Sys2Proof/WellFormed.lean ====
section
/-! DEFINITION. Which terms of Instr are instructions of Table 1: the read-modify-write instructions, TST, CLR and JMP
have no DIR form, the bit instructions no EXT form (R173, R179, and the rule of each instruction). -/

namespace Sys2Proof

/-- The forms of the read-modify-write instructions, CLR, TST and JMP: EXT, IND,X, IND,Y. -/
def Ea.notDir : Ea → Bool
  | .dir _ => false
  | .ext _ => true
  | .indX _ => true
  | .indY _ => true

/-- The forms of BSET, BCLR, BRSET and BRCLR: DIR, IND,X, IND,Y. -/
def Ea.notExt : Ea → Bool
  | .dir _ => true
  | .ext _ => false
  | .indX _ => true
  | .indY _ => true

/-- The term is an instruction form of Table 1. -/
def Instr.wellFormed : Instr → Bool
  | .clr m | .dec m | .inc m | .neg m | .tst m | .asl m | .asr m | .com m | .lsr m | .rol m | .ror m | .jmp m => m.notDir
  | .bset m _ | .bclr m _ | .brset m _ _ | .brclr m _ _ => m.notExt
  | .clra | .clrb | .ldaa _ | .ldab _ | .ldd _ | .lds _ | .ldx _ | .ldy _ | .psha | .pshb | .pshx | .pshy
  | .pula | .pulb | .pulx | .puly | .staa _ | .stab _ | .std _ | .sts _ | .stx _ | .sty _ | .tab | .tap
  | .tba | .tpa | .tsx | .tsy | .txs | .tys | .xgdx | .xgdy | .aba | .abx | .aby | .adca _ | .adcb _
  | .adda _ | .addb _ | .addd _ | .cba | .cmpa _ | .cmpb _ | .cpd _ | .cpx _ | .cpy _ | .daa | .deca
  | .decb | .des | .dex | .dey | .fdiv | .idiv | .inca | .incb | .ins | .inx | .iny | .mul | .nega | .negb
  | .sba | .sbca _ | .sbcb _ | .suba _ | .subb _ | .subd _ | .tsta | .tstb | .anda _ | .andb _ | .asla
  | .aslb | .asld | .asra | .asrb | .bita _ | .bitb _ | .coma | .comb | .eora _ | .eorb _ | .lsra | .lsrb
  | .lsrd | .oraa _ | .orab _ | .rola | .rolb | .rora | .rorb | .bcc _ | .bcs _ | .beq _ | .bge _ | .bgt _
  | .bhi _ | .ble _ | .bls _ | .blt _ | .bmi _ | .bne _ | .bpl _ | .bra _ | .brn _ | .bsr _ | .bvc _
  | .bvs _ | .jsr _ | .rts | .clc | .cli | .clv | .nop | .rti | .sec | .sei | .sev | .stop | .swi | .test
  | .wai => true

end Sys2Proof
end

