-- ==== Sys2Proof/Decode.lean ====
section
/-! DEFINITION. Decoding, total on every list of bytes, and the encoder (30_encoding.md). The decoder reads the opcode
maps of R181 to R184 row by row; the encoder is written from the formats of R179 and the regularities of R181. -/

namespace Sys2Proof

open Sys2Proof.Machine (hi lo join)

/-- The four opcode pages (R180 to R184). -/
inductive Page where
  | page1
  | page2
  | page3
  | page4
deriving DecidableEq, Repr

/-- Why bytes are not an instruction. -/
inductive DecodeError where
  /-- The list ends inside the instruction. -/
  | truncated
  /-- No row of the page's map has this opcode (R185, R186). -/
  | undefinedOpcode (p : Page) (op : Byte)
deriving DecidableEq, Repr

/-- The page a prebyte selects (R180). -/
def pageOfPrebyte (b : Byte) : Option Page :=
  if b = 0x18#8 then some .page2
  else if b = 0x1A#8 then some .page3
  else if b = 0xCD#8 then some .page4
  else none

/-- A row of an opcode map: the opcode byte, the number of operand bytes of its format (R179), and the instruction the
operand bytes give. A row with fewer than three operand bytes ignores the others. -/
structure OpRow where
  opcode : Byte
  operands : Nat
  build : Byte → Byte → Byte → Instr

/-! The formats of R179, one definition each. -/

def inh (op : Byte) (i : Instr) : OpRow := ⟨op, 0, fun _ _ _ => i⟩
def imm8 (op : Byte) (f : Src8 → Instr) : OpRow := ⟨op, 1, fun ii _ _ => f (.imm ii)⟩
def dir8 (op : Byte) (f : Src8 → Instr) : OpRow := ⟨op, 1, fun dd _ _ => f (.mem (.dir dd))⟩
def ext8 (op : Byte) (f : Src8 → Instr) : OpRow := ⟨op, 2, fun hh ll _ => f (.mem (.ext (join hh ll)))⟩
def indX8 (op : Byte) (f : Src8 → Instr) : OpRow := ⟨op, 1, fun ff _ _ => f (.mem (.indX ff))⟩
def indY8 (op : Byte) (f : Src8 → Instr) : OpRow := ⟨op, 1, fun ff _ _ => f (.mem (.indY ff))⟩
def imm16 (op : Byte) (f : Src16 → Instr) : OpRow := ⟨op, 2, fun jj kk _ => f (.imm (join jj kk))⟩
def dir16 (op : Byte) (f : Src16 → Instr) : OpRow := ⟨op, 1, fun dd _ _ => f (.mem (.dir dd))⟩
def ext16 (op : Byte) (f : Src16 → Instr) : OpRow := ⟨op, 2, fun hh ll _ => f (.mem (.ext (join hh ll)))⟩
def indX16 (op : Byte) (f : Src16 → Instr) : OpRow := ⟨op, 1, fun ff _ _ => f (.mem (.indX ff))⟩
def indY16 (op : Byte) (f : Src16 → Instr) : OpRow := ⟨op, 1, fun ff _ _ => f (.mem (.indY ff))⟩
def dirM (op : Byte) (f : Ea → Instr) : OpRow := ⟨op, 1, fun dd _ _ => f (.dir dd)⟩
def extM (op : Byte) (f : Ea → Instr) : OpRow := ⟨op, 2, fun hh ll _ => f (.ext (join hh ll))⟩
def indXM (op : Byte) (f : Ea → Instr) : OpRow := ⟨op, 1, fun ff _ _ => f (.indX ff)⟩
def indYM (op : Byte) (f : Ea → Instr) : OpRow := ⟨op, 1, fun ff _ _ => f (.indY ff)⟩
def rel (op : Byte) (f : Byte → Instr) : OpRow := ⟨op, 1, fun rr _ _ => f rr⟩
def dirMsk (op : Byte) (f : Ea → Byte → Instr) : OpRow := ⟨op, 2, fun dd mm _ => f (.dir dd) mm⟩
def indXMsk (op : Byte) (f : Ea → Byte → Instr) : OpRow := ⟨op, 2, fun ff mm _ => f (.indX ff) mm⟩
def indYMsk (op : Byte) (f : Ea → Byte → Instr) : OpRow := ⟨op, 2, fun ff mm _ => f (.indY ff) mm⟩
def dirMskRel (op : Byte) (f : Ea → Byte → Byte → Instr) : OpRow := ⟨op, 3, fun dd mm rr => f (.dir dd) mm rr⟩
def indXMskRel (op : Byte) (f : Ea → Byte → Byte → Instr) : OpRow := ⟨op, 3, fun ff mm rr => f (.indX ff) mm rr⟩
def indYMskRel (op : Byte) (f : Ea → Byte → Byte → Instr) : OpRow := ⟨op, 3, fun ff mm rr => f (.indY ff) mm rr⟩

/-- Page 1, opcodes $00 to $0F (R181). -/
def page1Column0 : List OpRow := [
  inh 0x00 .test, inh 0x01 .nop, inh 0x02 .idiv, inh 0x03 .fdiv, inh 0x04 .lsrd, inh 0x05 .asld, inh 0x06 .tap,
  inh 0x07 .tpa, inh 0x08 .inx, inh 0x09 .dex, inh 0x0A .clv, inh 0x0B .sev, inh 0x0C .clc, inh 0x0D .sec,
  inh 0x0E .cli, inh 0x0F .sei]

/-- Page 1, opcodes $10 to $1F (R181). -/
def page1Column1 : List OpRow := [
  inh 0x10 .sba, inh 0x11 .cba, dirMskRel 0x12 .brset, dirMskRel 0x13 .brclr, dirMsk 0x14 .bset, dirMsk 0x15 .bclr,
  inh 0x16 .tab, inh 0x17 .tba, inh 0x19 .daa, inh 0x1B .aba, indXMsk 0x1C .bset, indXMsk 0x1D .bclr,
  indXMskRel 0x1E .brset, indXMskRel 0x1F .brclr]

/-- Page 1, opcodes $20 to $2F (R181). -/
def page1Column2 : List OpRow := [
  rel 0x20 .bra, rel 0x21 .brn, rel 0x22 .bhi, rel 0x23 .bls, rel 0x24 .bcc, rel 0x25 .bcs, rel 0x26 .bne,
  rel 0x27 .beq, rel 0x28 .bvc, rel 0x29 .bvs, rel 0x2A .bpl, rel 0x2B .bmi, rel 0x2C .bge, rel 0x2D .blt,
  rel 0x2E .bgt, rel 0x2F .ble]

/-- Page 1, opcodes $30 to $3F (R181). -/
def page1Column3 : List OpRow := [
  inh 0x30 .tsx, inh 0x31 .ins, inh 0x32 .pula, inh 0x33 .pulb, inh 0x34 .des, inh 0x35 .txs, inh 0x36 .psha,
  inh 0x37 .pshb, inh 0x38 .pulx, inh 0x39 .rts, inh 0x3A .abx, inh 0x3B .rti, inh 0x3C .pshx, inh 0x3D .mul,
  inh 0x3E .wai, inh 0x3F .swi]

/-- Page 1, opcodes $40 to $4F (R181). -/
def page1Column4 : List OpRow := [
  inh 0x40 .nega, inh 0x43 .coma, inh 0x44 .lsra, inh 0x46 .rora, inh 0x47 .asra, inh 0x48 .asla, inh 0x49 .rola,
  inh 0x4A .deca, inh 0x4C .inca, inh 0x4D .tsta, inh 0x4F .clra]

/-- Page 1, opcodes $50 to $5F (R181). -/
def page1Column5 : List OpRow := [
  inh 0x50 .negb, inh 0x53 .comb, inh 0x54 .lsrb, inh 0x56 .rorb, inh 0x57 .asrb, inh 0x58 .aslb, inh 0x59 .rolb,
  inh 0x5A .decb, inh 0x5C .incb, inh 0x5D .tstb, inh 0x5F .clrb]

/-- Page 1, opcodes $60 to $6F (R181). -/
def page1Column6 : List OpRow := [
  indXM 0x60 .neg, indXM 0x63 .com, indXM 0x64 .lsr, indXM 0x66 .ror, indXM 0x67 .asr, indXM 0x68 .asl,
  indXM 0x69 .rol, indXM 0x6A .dec, indXM 0x6C .inc, indXM 0x6D .tst, indXM 0x6E .jmp, indXM 0x6F .clr]

/-- Page 1, opcodes $70 to $7F (R181). -/
def page1Column7 : List OpRow := [
  extM 0x70 .neg, extM 0x73 .com, extM 0x74 .lsr, extM 0x76 .ror, extM 0x77 .asr, extM 0x78 .asl, extM 0x79 .rol,
  extM 0x7A .dec, extM 0x7C .inc, extM 0x7D .tst, extM 0x7E .jmp, extM 0x7F .clr]

/-- Page 1, opcodes $80 to $8F (R181). -/
def page1Column8 : List OpRow := [
  imm8 0x80 .suba, imm8 0x81 .cmpa, imm8 0x82 .sbca, imm16 0x83 .subd, imm8 0x84 .anda, imm8 0x85 .bita,
  imm8 0x86 .ldaa, imm8 0x88 .eora, imm8 0x89 .adca, imm8 0x8A .oraa, imm8 0x8B .adda, imm16 0x8C .cpx,
  rel 0x8D .bsr, imm16 0x8E .lds, inh 0x8F .xgdx]

/-- Page 1, opcodes $90 to $9F (R181). -/
def page1Column9 : List OpRow := [
  dir8 0x90 .suba, dir8 0x91 .cmpa, dir8 0x92 .sbca, dir16 0x93 .subd, dir8 0x94 .anda, dir8 0x95 .bita,
  dir8 0x96 .ldaa, dirM 0x97 .staa, dir8 0x98 .eora, dir8 0x99 .adca, dir8 0x9A .oraa, dir8 0x9B .adda,
  dir16 0x9C .cpx, dirM 0x9D .jsr, dir16 0x9E .lds, dirM 0x9F .sts]

/-- Page 1, opcodes $A0 to $AF (R181). -/
def page1ColumnA : List OpRow := [
  indX8 0xA0 .suba, indX8 0xA1 .cmpa, indX8 0xA2 .sbca, indX16 0xA3 .subd, indX8 0xA4 .anda, indX8 0xA5 .bita,
  indX8 0xA6 .ldaa, indXM 0xA7 .staa, indX8 0xA8 .eora, indX8 0xA9 .adca, indX8 0xAA .oraa, indX8 0xAB .adda,
  indX16 0xAC .cpx, indXM 0xAD .jsr, indX16 0xAE .lds, indXM 0xAF .sts]

/-- Page 1, opcodes $B0 to $BF (R181). -/
def page1ColumnB : List OpRow := [
  ext8 0xB0 .suba, ext8 0xB1 .cmpa, ext8 0xB2 .sbca, ext16 0xB3 .subd, ext8 0xB4 .anda, ext8 0xB5 .bita,
  ext8 0xB6 .ldaa, extM 0xB7 .staa, ext8 0xB8 .eora, ext8 0xB9 .adca, ext8 0xBA .oraa, ext8 0xBB .adda,
  ext16 0xBC .cpx, extM 0xBD .jsr, ext16 0xBE .lds, extM 0xBF .sts]

/-- Page 1, opcodes $C0 to $CF (R181). -/
def page1ColumnC : List OpRow := [
  imm8 0xC0 .subb, imm8 0xC1 .cmpb, imm8 0xC2 .sbcb, imm16 0xC3 .addd, imm8 0xC4 .andb, imm8 0xC5 .bitb,
  imm8 0xC6 .ldab, imm8 0xC8 .eorb, imm8 0xC9 .adcb, imm8 0xCA .orab, imm8 0xCB .addb, imm16 0xCC .ldd,
  imm16 0xCE .ldx, inh 0xCF .stop]

/-- Page 1, opcodes $D0 to $DF (R181). -/
def page1ColumnD : List OpRow := [
  dir8 0xD0 .subb, dir8 0xD1 .cmpb, dir8 0xD2 .sbcb, dir16 0xD3 .addd, dir8 0xD4 .andb, dir8 0xD5 .bitb,
  dir8 0xD6 .ldab, dirM 0xD7 .stab, dir8 0xD8 .eorb, dir8 0xD9 .adcb, dir8 0xDA .orab, dir8 0xDB .addb,
  dir16 0xDC .ldd, dirM 0xDD .std, dir16 0xDE .ldx, dirM 0xDF .stx]

/-- Page 1, opcodes $E0 to $EF (R181). -/
def page1ColumnE : List OpRow := [
  indX8 0xE0 .subb, indX8 0xE1 .cmpb, indX8 0xE2 .sbcb, indX16 0xE3 .addd, indX8 0xE4 .andb, indX8 0xE5 .bitb,
  indX8 0xE6 .ldab, indXM 0xE7 .stab, indX8 0xE8 .eorb, indX8 0xE9 .adcb, indX8 0xEA .orab, indX8 0xEB .addb,
  indX16 0xEC .ldd, indXM 0xED .std, indX16 0xEE .ldx, indXM 0xEF .stx]

/-- Page 1, opcodes $F0 to $FF (R181). -/
def page1ColumnF : List OpRow := [
  ext8 0xF0 .subb, ext8 0xF1 .cmpb, ext8 0xF2 .sbcb, ext16 0xF3 .addd, ext8 0xF4 .andb, ext8 0xF5 .bitb,
  ext8 0xF6 .ldab, extM 0xF7 .stab, ext8 0xF8 .eorb, ext8 0xF9 .adcb, ext8 0xFA .orab, ext8 0xFB .addb,
  ext16 0xFC .ldd, extM 0xFD .std, ext16 0xFE .ldx, extM 0xFF .stx]

/-- Page 1, no prebyte: 233 defined opcodes (R181). -/
def page1Rows : List OpRow :=
  page1Column0 ++ page1Column1 ++ page1Column2 ++ page1Column3 ++ page1Column4 ++
  page1Column5 ++ page1Column6 ++ page1Column7 ++ page1Column8 ++ page1Column9 ++
  page1ColumnA ++ page1ColumnB ++ page1ColumnC ++ page1ColumnD ++ page1ColumnE ++ page1ColumnF

/-- Page 2, prebyte $18, second bytes $00 to $6F (R182). -/
def page2Low : List OpRow := [
  inh 0x08 .iny, inh 0x09 .dey, indYMsk 0x1C .bset, indYMsk 0x1D .bclr, indYMskRel 0x1E .brset,
  indYMskRel 0x1F .brclr, inh 0x30 .tsy, inh 0x35 .tys, inh 0x38 .puly, inh 0x3A .aby, inh 0x3C .pshy,
  indYM 0x60 .neg, indYM 0x63 .com, indYM 0x64 .lsr, indYM 0x66 .ror, indYM 0x67 .asr, indYM 0x68 .asl,
  indYM 0x69 .rol, indYM 0x6A .dec, indYM 0x6C .inc, indYM 0x6D .tst, indYM 0x6E .jmp, indYM 0x6F .clr]

/-- Page 2, prebyte $18, second bytes $70 to $CF (R182). -/
def page2Mid : List OpRow := [
  imm16 0x8C .cpy, inh 0x8F .xgdy, dir16 0x9C .cpy, indY8 0xA0 .suba, indY8 0xA1 .cmpa, indY8 0xA2 .sbca,
  indY16 0xA3 .subd, indY8 0xA4 .anda, indY8 0xA5 .bita, indY8 0xA6 .ldaa, indYM 0xA7 .staa, indY8 0xA8 .eora,
  indY8 0xA9 .adca, indY8 0xAA .oraa, indY8 0xAB .adda, indY16 0xAC .cpy, indYM 0xAD .jsr, indY16 0xAE .lds,
  indYM 0xAF .sts, ext16 0xBC .cpy, imm16 0xCE .ldy]

/-- Page 2, prebyte $18, second bytes $D0 to $FF (R182). -/
def page2High : List OpRow := [
  dir16 0xDE .ldy, dirM 0xDF .sty, indY8 0xE0 .subb, indY8 0xE1 .cmpb, indY8 0xE2 .sbcb, indY16 0xE3 .addd,
  indY8 0xE4 .andb, indY8 0xE5 .bitb, indY8 0xE6 .ldab, indYM 0xE7 .stab, indY8 0xE8 .eorb, indY8 0xE9 .adcb,
  indY8 0xEA .orab, indY8 0xEB .addb, indY16 0xEC .ldd, indYM 0xED .std, indY16 0xEE .ldy, indYM 0xEF .sty,
  ext16 0xFE .ldy, extM 0xFF .sty]

/-- Page 2, prebyte $18: 64 defined second bytes (R182). -/
def page2Rows : List OpRow := page2Low ++ page2Mid ++ page2High

/-- Page 3, prebyte $1A: 7 defined second bytes (R183). -/
def page3Rows : List OpRow := [
  imm16 0x83 .cpd, dir16 0x93 .cpd, indX16 0xA3 .cpd, indX16 0xAC .cpy, ext16 0xB3 .cpd, indX16 0xEE .ldy,
  indXM 0xEF .sty]

/-- Page 4, prebyte $CD: 4 defined second bytes (R184). -/
def page4Rows : List OpRow := [
  indY16 0xA3 .cpd, indY16 0xAC .cpx, indY16 0xEE .ldx, indYM 0xEF .stx]

/-- The map of a page. -/
def pageRows : Page → List OpRow
  | .page1 => page1Rows
  | .page2 => page2Rows
  | .page3 => page3Rows
  | .page4 => page4Rows

/-- The row of an opcode on a page, none where the map has none (R171). -/
def lookup (p : Page) (op : Byte) : Option OpRow := (pageRows p).find? fun r => r.opcode = op

/-- The instruction of a row and its operand bytes, with the bytes that follow. -/
def OpRow.finish (r : OpRow) (ops : List Byte) : Except DecodeError (Instr × List Byte) :=
  if ops.length < r.operands then .error .truncated
  else .ok (r.build (ops.getD 0 0) (ops.getD 1 0) (ops.getD 2 0), ops.drop r.operands)

/-- Decoding after the prebyte, if any (R171). -/
def decodeOn (p : Page) (op : Byte) (ops : List Byte) : Except DecodeError (Instr × List Byte) :=
  match lookup p op with
  | none => .error (.undefinedOpcode p op)
  | some r => r.finish ops

/-- The first instruction of a list of bytes, and the bytes that follow it (R170, R171). -/
def decode : List Byte → Except DecodeError (Instr × List Byte)
  | [] => .error .truncated
  | b0 :: rest =>
    match pageOfPrebyte b0 with
    | none => decodeOn .page1 b0 rest
    | some p =>
      match rest with
      | [] => .error .truncated
      | b1 :: ops => decodeOn p b1 ops

/-! The encoder. -/

/-- DIR, EXT, IND,X and IND,Y with the opcode of the DIR form, bits 5:4 selecting the mode (R181). The bytes before the
opcode are `p` for DIR and EXT, `px` for IND,X and `py` for IND,Y (R180). -/
def encodeMem (p px py : List Byte) (op : Byte) : Ea → List Byte
  | .dir dd => p ++ [op, dd]
  | .indX ff => px ++ [op + 0x10, ff]
  | .indY ff => py ++ [op + 0x10, ff]
  | .ext a => p ++ [op + 0x20, hi a, lo a]

/-- The 8-bit accumulator instructions, with the opcode of the IMM form. -/
def encode8 (op : Byte) : Src8 → List Byte
  | .imm ii => [op, ii]
  | .mem m => encodeMem [] [] [0x18] (op + 0x10) m

/-- The 16-bit instructions, with the opcode of the IMM form and the bytes before it. -/
def encode16 (p px py : List Byte) (op : Byte) : Src16 → List Byte
  | .imm v => p ++ [op, hi v, lo v]
  | .mem m => encodeMem p px py (op + 0x10) m

/-- The read-modify-write instructions, CLR, TST and JMP, with the opcode of the IND,X form (R181). There is no DIR
form. -/
def encodeRmw (op : Byte) : Ea → List Byte
  | .dir _ => []
  | .indX ff => [op, ff]
  | .indY ff => [0x18, op, ff]
  | .ext a => [op + 0x10, hi a, lo a]

/-- BSET, BCLR, BRSET, BRCLR, with the opcodes of the DIR and the IND,X form and the bytes after the address byte. There
is no EXT form. -/
def encodeBit (opDir opInd : Byte) (tail : List Byte) : Ea → List Byte
  | .dir dd => opDir :: dd :: tail
  | .indX ff => opInd :: ff :: tail
  | .indY ff => 0x18 :: opInd :: ff :: tail
  | .ext _ => []

/-- The bytes of an instruction; no byte for a term that is not well formed. -/
def encode : Instr → List Byte
  | .clr m => encodeRmw 0x6F m
  | .clra => [0x4F]
  | .clrb => [0x5F]
  | .ldaa o => encode8 0x86 o
  | .ldab o => encode8 0xC6 o
  | .ldd o => encode16 [] [] [0x18] 0xCC o
  | .lds o => encode16 [] [] [0x18] 0x8E o
  | .ldx o => encode16 [] [] [0xCD] 0xCE o
  | .ldy o => encode16 [0x18] [0x1A] [0x18] 0xCE o
  | .psha => [0x36]
  | .pshb => [0x37]
  | .pshx => [0x3C]
  | .pshy => [0x18, 0x3C]
  | .pula => [0x32]
  | .pulb => [0x33]
  | .pulx => [0x38]
  | .puly => [0x18, 0x38]
  | .staa m => encodeMem [] [] [0x18] 0x97 m
  | .stab m => encodeMem [] [] [0x18] 0xD7 m
  | .std m => encodeMem [] [] [0x18] 0xDD m
  | .sts m => encodeMem [] [] [0x18] 0x9F m
  | .stx m => encodeMem [] [] [0xCD] 0xDF m
  | .sty m => encodeMem [0x18] [0x1A] [0x18] 0xDF m
  | .tab => [0x16]
  | .tap => [0x06]
  | .tba => [0x17]
  | .tpa => [0x07]
  | .tsx => [0x30]
  | .tsy => [0x18, 0x30]
  | .txs => [0x35]
  | .tys => [0x18, 0x35]
  | .xgdx => [0x8F]
  | .xgdy => [0x18, 0x8F]
  | .aba => [0x1B]
  | .abx => [0x3A]
  | .aby => [0x18, 0x3A]
  | .adca o => encode8 0x89 o
  | .adcb o => encode8 0xC9 o
  | .adda o => encode8 0x8B o
  | .addb o => encode8 0xCB o
  | .addd o => encode16 [] [] [0x18] 0xC3 o
  | .cba => [0x11]
  | .cmpa o => encode8 0x81 o
  | .cmpb o => encode8 0xC1 o
  | .cpd o => encode16 [0x1A] [0x1A] [0xCD] 0x83 o
  | .cpx o => encode16 [] [] [0xCD] 0x8C o
  | .cpy o => encode16 [0x18] [0x1A] [0x18] 0x8C o
  | .daa => [0x19]
  | .dec m => encodeRmw 0x6A m
  | .deca => [0x4A]
  | .decb => [0x5A]
  | .des => [0x34]
  | .dex => [0x09]
  | .dey => [0x18, 0x09]
  | .fdiv => [0x03]
  | .idiv => [0x02]
  | .inc m => encodeRmw 0x6C m
  | .inca => [0x4C]
  | .incb => [0x5C]
  | .ins => [0x31]
  | .inx => [0x08]
  | .iny => [0x18, 0x08]
  | .mul => [0x3D]
  | .neg m => encodeRmw 0x60 m
  | .nega => [0x40]
  | .negb => [0x50]
  | .sba => [0x10]
  | .sbca o => encode8 0x82 o
  | .sbcb o => encode8 0xC2 o
  | .suba o => encode8 0x80 o
  | .subb o => encode8 0xC0 o
  | .subd o => encode16 [] [] [0x18] 0x83 o
  | .tst m => encodeRmw 0x6D m
  | .tsta => [0x4D]
  | .tstb => [0x5D]
  | .anda o => encode8 0x84 o
  | .andb o => encode8 0xC4 o
  | .asl m => encodeRmw 0x68 m
  | .asla => [0x48]
  | .aslb => [0x58]
  | .asld => [0x05]
  | .asr m => encodeRmw 0x67 m
  | .asra => [0x47]
  | .asrb => [0x57]
  | .bclr m mm => encodeBit 0x15 0x1D [mm] m
  | .bita o => encode8 0x85 o
  | .bitb o => encode8 0xC5 o
  | .bset m mm => encodeBit 0x14 0x1C [mm] m
  | .com m => encodeRmw 0x63 m
  | .coma => [0x43]
  | .comb => [0x53]
  | .eora o => encode8 0x88 o
  | .eorb o => encode8 0xC8 o
  | .lsr m => encodeRmw 0x64 m
  | .lsra => [0x44]
  | .lsrb => [0x54]
  | .lsrd => [0x04]
  | .oraa o => encode8 0x8A o
  | .orab o => encode8 0xCA o
  | .rol m => encodeRmw 0x69 m
  | .rola => [0x49]
  | .rolb => [0x59]
  | .ror m => encodeRmw 0x66 m
  | .rora => [0x46]
  | .rorb => [0x56]
  | .bcc rr => [0x24, rr]
  | .bcs rr => [0x25, rr]
  | .beq rr => [0x27, rr]
  | .bge rr => [0x2C, rr]
  | .bgt rr => [0x2E, rr]
  | .bhi rr => [0x22, rr]
  | .ble rr => [0x2F, rr]
  | .bls rr => [0x23, rr]
  | .blt rr => [0x2D, rr]
  | .bmi rr => [0x2B, rr]
  | .bne rr => [0x26, rr]
  | .bpl rr => [0x2A, rr]
  | .bra rr => [0x20, rr]
  | .brclr m mm rr => encodeBit 0x13 0x1F [mm, rr] m
  | .brn rr => [0x21, rr]
  | .brset m mm rr => encodeBit 0x12 0x1E [mm, rr] m
  | .bsr rr => [0x8D, rr]
  | .bvc rr => [0x28, rr]
  | .bvs rr => [0x29, rr]
  | .jmp m => encodeRmw 0x6E m
  | .jsr m => encodeMem [] [] [0x18] 0x9D m
  | .rts => [0x39]
  | .clc => [0x0C]
  | .cli => [0x0E]
  | .clv => [0x0A]
  | .nop => [0x01]
  | .rti => [0x3B]
  | .sec => [0x0D]
  | .sei => [0x0F]
  | .sev => [0x0B]
  | .stop => [0xCF]
  | .swi => [0x3F]
  | .test => [0x00]
  | .wai => [0x3E]

/-- The first five bytes of an instruction whose bits are `w`, the first byte the least significant, the bits above
`nbits` zero: the longest instruction has five bytes (R170). -/
def tableBytes (nbits w : Nat) : List Byte :=
  let v := w % 2 ^ nbits
  [BitVec.ofNat 8 v, BitVec.ofNat 8 (v / 2 ^ 8), BitVec.ofNat 8 (v / 2 ^ 16), BitVec.ofNat 8 (v / 2 ^ 24),
    BitVec.ofNat 8 (v / 2 ^ 32)]

/-- The instruction the decoder reads from an opcode-table word. -/
def decodeTableWord (nbits w : Nat) : Option Instr :=
  match decode (tableBytes nbits w) with
  | .ok (i, _) => some i
  | .error _ => none

end Sys2Proof
end

