-- ==== Sys2Proof/Machine/Fetch.lean ====
section
/-! DEFINITION. Fetching an instruction's bytes (R16, R131, R158, R186). -/

namespace Sys2Proof.Machine

/-- `Fetch8()`, after which the outside world may move (R16, R155). -/
def fetch8 (s : State) : Byte × State :=
  let b := readByte s s.cpu.pc
  (b.1, pause (b.2.setPc (b.2.cpu.pc + 1)))

/-- `n` bytes, in ascending order (R131). -/
def fetchBytes : Nat → State → List Byte × State
  | 0, s => ([], s)
  | n + 1, s =>
    let b := fetch8 s
    let r := fetchBytes n b.2
    (b.1 :: r.1, r.2)

/-- The number of operand bytes that follow an opcode: none for an undefined one (R186). -/
def operandCount (p : Page) (op : Byte) : Nat :=
  match lookup p op with
  | some r => r.operands
  | none => 0

/-- The bytes of the instruction at PC, and the state with PC past them. After an undefined opcode no operand byte is
fetched (R186). -/
def fetchInstruction (s : State) : List Byte × State :=
  let b0 := fetch8 s
  match pageOfPrebyte b0.1 with
  | none =>
    let ops := fetchBytes (operandCount .page1 b0.1) b0.2
    (b0.1 :: ops.1, ops.2)
  | some p =>
    let b1 := fetch8 b0.2
    let ops := fetchBytes (operandCount p b1.1) b1.2
    (b0.1 :: b1.1 :: ops.1, ops.2)

end Sys2Proof.Machine
end

