-- ==== Sys2Proof/Machine/Interrupts.lean ====
section
/-! DEFINITION. Interrupt sources, requests, priority and entry (60_exceptions.md, R432 to R451). -/

namespace Sys2Proof.Machine

/-- The I-maskable vectors in their fixed order of priority, descending vector address (R439). -/
inductive IntSource where
  | irq
  | rti
  | ic1
  | ic2
  | ic3
  | oc1
  | oc2
  | oc3
  | oc4
  | i4o5
  | tof
  | paov
  | pai
  | spi
  | sci
deriving DecidableEq, Repr

/-- The fixed order (R439). -/
def fixedOrder : List IntSource :=
  [.irq, .rti, .ic1, .ic2, .ic3, .oc1, .oc2, .oc3, .oc4, .i4o5, .tof, .paov, .pai, .spi, .sci]

/-- The vector's offset from the vector base (R432). -/
def IntSource.vector : IntSource → Word
  | .irq => 0xF2
  | .rti => 0xF0
  | .ic1 => 0xEE
  | .ic2 => 0xEC
  | .ic3 => 0xEA
  | .oc1 => 0xE8
  | .oc2 => 0xE6
  | .oc3 => 0xE4
  | .oc4 => 0xE2
  | .i4o5 => 0xE0
  | .tof => 0xDE
  | .paov => 0xDC
  | .pai => 0xDA
  | .spi => 0xD8
  | .sci => 0xD6

/-- The offset of the XIRQ vector (R437). -/
def xirqVector : Word := 0xF4

/-- The request on the IRQ pin: the low level, or with OPTION.IRQE = 1 the latched edge (R451). -/
def irqPinRequest (s : State) : Bool := if bit s.io.sys.option 5 then s.io.sys.irqLatch else !s.pins.irq

/-- The request of parallel I/O: PIOC.STAF and STAI (R451). -/
def parallelRequest (s : State) : Bool := bit s.io.ports.pioc 7 && bit s.io.ports.pioc 6

/-- The SCI's five causes and their enables (R432); RWU = 1 inhibits those of the receiver, RDRF, OR and IDLE (R72). -/
def sciRequest (p : Sci) : Bool :=
  let transmitter := (bit p.scsr 7 && bit p.sccr2 7) || (bit p.scsr 6 && bit p.sccr2 6)
  let receiver := (bit p.scsr 5 && bit p.sccr2 5) || (bit p.scsr 3 && bit p.sccr2 5) || (bit p.scsr 4 && bit p.sccr2 4)
  transmitter || (receiver && !bit p.sccr2 1)

/-- A source is pending: its request flag and its local mask are both 1 (R436). -/
def IntSource.pending (i : IntSource) (s : State) : Bool :=
  let t := s.io.timer
  let first (k : Nat) : Bool := bit t.tflg1 k && bit t.tmsk1 k
  let second (k : Nat) : Bool := bit t.tflg2 k && bit t.tmsk2 k
  match i with
  | .irq => irqPinRequest s || parallelRequest s
  | .rti => second 6
  | .ic1 => first 2
  | .ic2 => first 1
  | .ic3 => first 0
  | .oc1 => first 7
  | .oc2 => first 6
  | .oc3 => first 5
  | .oc4 => first 4
  | .i4o5 => first 3
  | .tof => second 7
  | .paov => second 5
  | .pai => second 4
  | .spi => (bit s.io.spi.spsr 7 || bit s.io.spi.spsr 4) && bit s.io.spi.spcr 7
  | .sci => sciRequest s.io.sci

/-- The source HPRIO.PSEL names (R450). -/
def promoted (psel : Nat) : IntSource :=
  match psel with
  | 0 => .tof
  | 1 => .paov
  | 2 => .pai
  | 3 => .spi
  | 4 => .sci
  | 5 => .irq
  | 6 => .irq
  | 7 => .rti
  | 8 => .ic1
  | 9 => .ic2
  | 10 => .ic3
  | 11 => .oc1
  | 12 => .oc2
  | 13 => .oc3
  | 14 => .oc4
  | _ => .i4o5

/-- The I-maskable source that wins: the promoted one, then the fixed order (R439, R450). -/
def winner (s : State) : Option IntSource :=
  (promoted s.psel :: fixedOrder).find? fun i => i.pending s

/-- What the CPU takes at a recognition point. -/
inductive Request where
  | xirq
  | maskable (i : IntSource)
deriving DecidableEq, Repr

/-- XIRQ is pending while its pin is low, and taken only while X = 0 (R437). -/
def xirqTaken (s : State) : Bool := !s.pins.xirq && !s.cpu.ccr.x

/-- The request a recognition point takes, the masks judged on the live CCR (R438, R439). -/
def requestOf (s : State) : Option Request :=
  if xirqTaken s then some .xirq
  else if s.cpu.ccr.i then none
  else (winner s).map .maskable

/-- The request taken before the next instruction. When the last instruction cleared I, a maskable request may wait for
one more instruction: a free value chooses (R96, R506, notes/assumptions/19.md). -/
def recognise (s : State) : Option Request × State :=
  match requestOf s with
  | some (.maskable i) =>
    if s.cpu.iCleared then
      (if Config.freeBit s.draws then none else some (.maskable i), s.drawn 1)
    else (some (.maskable i), s)
  | r => (r, s)

/-- The vector offset of a request. -/
def Request.vector : Request → Word
  | .xirq => xirqVector
  | .maskable i => i.vector

/-- XIRQ entry sets X (R444). -/
def Request.setsX : Request → Bool
  | .xirq => true
  | .maskable _ => false

/-- Taking the IRQ interrupt clears its edge latch (R90, R451). -/
def Request.acknowledge (r : Request) (s : State) : State :=
  match r with
  | .maskable .irq => s.setSys { s.io.sys with irqLatch := false }
  | .maskable _ => s
  | .xirq => s

/-- Interrupt entry between instructions: RTN is the address of the next instruction (R443, R444). -/
def takeInterrupt (r : Request) (s : State) : Result :=
  takeException s.cpu.pc r.vector r.setsX (r.acknowledge (s.setICleared false))

/-- Interrupt entry from the wait state: the frame is on the stack already (R445). -/
def wakeFromWait (r : Request) (s : State) : State := enterVector r.vector r.setsX (r.acknowledge s)

/-- What ends the stop state besides a reset: XIRQ, whatever X holds, and an IRQ pin request while I = 0 (R418). That XIRQ
with X = 1 comes before a request on IRQ, which then waits for the next recognition point, is the model's choice
(notes/assumptions/37.md). -/
def stopWake (s : State) : Option StopWake :=
  if !s.pins.xirq then some (if s.cpu.ccr.x then .resume else .xirq)
  else if irqPinRequest s && !s.cpu.ccr.i then some .irq
  else none

end Sys2Proof.Machine
end

