-- ==== Sys2Proof/Machine/Reset.lean ====
section
/-! DEFINITION. The reset sequence (70_reset_and_hazards.md, R490 to R496). -/

namespace Sys2Proof.Machine

/-- The offset of a reset's vector (R490). -/
def ResetKind.vector : ResetKind → Word
  | .pin => 0xFE
  | .clockMonitor => 0xFC
  | .cop => 0xFA

/-- HPRIO after reset: SMOD is the inverse of MODB, MDA is MODA, RBOOT is 1 only in bootstrap mode, IRVNE only in special
test mode, PSEL is 0110 (R83, R495). -/
def resetHprio (modA modB : Bool) : Byte :=
  flagBit 7 (!modB && !modA) ||| flagBit 6 (!modB) ||| flagBit 5 modA ||| flagBit 4 (!modB && modA) ||| 0x06

/-- CONFIG after reset, but for NOSEC: the non-volatile cells with the overrides of the Reset rows, U(L) being the latch
before the reset (R86, R87, R496, notes/assumptions/16.md). `keep` are the bits taken from the cells, `hold` those held,
`ones` those forced to 1. -/
def resetConfigBits (d : Device) (modA modB : Bool) (cells latch : Byte) : Byte :=
  let row (keep hold ones : Byte) : Byte := (cells &&& keep) ||| (latch &&& hold) ||| ones
  if d = .mc68hc811e2 then
    match modB, modA with
    | true, false => row 0x0C 0x00 0xF3
    | false, false => row 0x08 0x04 0xF3
    | true, true => row 0xF5 0x00 0x0A
    | false, true => row 0xF0 0x04 0x0A
  else
    match modB, modA with
    | true, false => row 0x0D 0x00 0x02
    | false, false => row 0x0B 0x04 0x00
    | true, true => row 0x07 0x00 0x08
    | false, true => row 0x03 0x04 0x08

/-- CONFIG after reset: NOSEC always reads 1 unless the security mask option was specified (R11, R86). -/
def resetConfig (s : State) : Byte :=
  resetConfigBits s.params.device s.pins.modA s.pins.modB s.params.configNv s.io.sys.config |||
    flagBit 3 (!s.params.securityMask)

/-- The CPU after reset but for PC: S = X = I = 1 and every other register any value (R492). -/
def resetCpu (d : Nat) (pc : Word) : Cpu where
  a := Config.freeByte d
  b := Config.freeByte (d + 1)
  ix := Config.freeWord d
  iy := Config.freeWord (d + 1)
  sp := Config.freeWord (d + 2)
  pc := pc
  ccr :=
    { s := true, x := true, h := Config.freeBit d, i := true, n := Config.freeBit (d + 1), z := Config.freeBit (d + 2)
      v := Config.freeBit (d + 3), c := Config.freeBit (d + 4) }
  run := .running
  iCleared := false

/-- The ports after reset; PIOC.PLS is unaffected (R493). -/
def resetPorts (d : Nat) (p : Ports) : Ports where
  porta := Config.freeByte (d + 2) &&& 0x8F
  pioc := (p.pioc &&& 0x04) ||| 0x03
  portc := Config.freeByte (d + 3)
  portb := 0
  portcl := Config.freeByte (d + 4)
  ddrc := 0
  portd := Config.freeByte (d + 5) &&& 0x3F
  ddrd := 0
  stafArmed := false
  strbActive := false
  strbPulse := 0

/-- The timer after reset; TIC1 to TIC3 and PACNT are unaffected (R493, R494). -/
def resetTimer (t : Timer) : Timer where
  oc1m := 0
  oc1d := 0
  tcnt := 0
  tic1 := t.tic1
  tic2 := t.tic2
  tic3 := t.tic3
  toc1 := 0xFFFF
  toc2 := 0xFFFF
  toc3 := 0xFFFF
  toc4 := 0xFFFF
  ti4o5 := 0xFFFF
  tctl1 := 0
  tctl2 := 0
  tmsk1 := 0
  tflg1 := 0
  tmsk2 := 0
  tflg2 := 0
  pactl := 0
  pacnt := t.pacnt
  prescale := 0
  ocPins := 0

/-- The SPI after reset; SPCR.SPR is unaffected (R493). -/
def resetSpi (d : Nat) (p : Spi) : Spi where
  spcr := (p.spcr &&& 0x03) ||| 0x04
  spsr := 0
  rx := Config.freeByte (d + 6)
  shift := 0
  left := none
  slaveBusy := false
  armed := 0

/-- The SCI after reset; BAUD.SCR is unaffected (R493). -/
def resetSci (d : Nat) (p : Sci) : Sci where
  baud := p.baud &&& 0x07
  sccr1 := Config.freeByte (d + 7) &&& 0xC0
  sccr2 := 0
  scsr := 0xC0
  rxShift := 0
  rx := Config.freeByte (d + 8)
  tx := Config.freeByte (d + 9)
  shift := 0
  left := none
  armed := 0
  lineActive := false

/-- The A/D converter after reset (R493). -/
def resetAdc (d : Nat) : Adc where
  adctl := Config.freeByte (d + 10) &&& 0x3F
  adr1 := Config.freeByte (d + 11)
  adr2 := Config.freeByte (d + 12)
  adr3 := Config.freeByte (d + 13)
  adr4 := Config.freeByte (d + 14)
  next := none

/-- The system registers and the hidden state after reset (R493, R494, R467). TEST1.DISR is 1 in the special modes; in the
normal modes it is any value, which nothing reads (U23, notes/assumptions/5.md). -/
def resetSys (s : State) : Sys where
  bprot := 0x1F
  eprog := 0
  option := 0x10
  pprog := 0
  hprio := resetHprio s.pins.modA s.pins.modB
  init := 0x01
  test1 := flagBit 3 (!s.pins.modB || Config.freeBit (s.draws + 5))
  config := resetConfig s
  cycles := 0
  initWritten := false
  prWritten := false
  optionWritten := false
  bprotWritten := false
  mdaWritten := false
  irvWritten := false
  copArmed := false
  copCount := 0
  irqLatch := false
  pendingReset := none

/-- Items 1 to 3 of the reset sequence: everything but the vector fetch (R491). Memory, pins and parameters stay. -/
def resetRegisters (s : State) : State :=
  { s with
    cpu := resetCpu s.draws s.cpu.pc
    io :=
      { ports := resetPorts s.draws s.io.ports
        timer := resetTimer s.io.timer
        spi := resetSpi s.draws s.io.spi
        sci := resetSci s.draws s.io.sci
        adc := resetAdc s.draws
        sys := resetSys s }
    draws := s.draws + 15 }

/-- A reset: refused where the chip comes up secured, else PC is loaded through the fresh map from the fresh vector base.
No E cycle passes in it, the count of cycles starting at 0 (R11, R490, R491, D3, D26). -/
def performReset (k : ResetKind) (s : State) : Result :=
  let fresh := resetRegisters s
  if bit fresh.io.sys.config 3 then
    let v := readPair id fresh (fresh.vectorBase + k.vector)
    .next (v.2.setPc v.1)
  else .refused .securedPart

end Sys2Proof.Machine
end

