-- ==== Sys2Proof/Machine/Execute.lean ====
section
/-! DEFINITION. What one step does: a reset, an interrupt entry, one cycle of waiting, a stopped step, one cycle of a start-up
delay or one instruction, and then the time it took (R438, R511). -/

namespace Sys2Proof.Machine

/-- The rest of the `n` cycles of a step that started at the count `start`: what of them has not passed between its
accesses passes at its end (R511, D33). A step that a reset abandons has no end. -/
def spend (start n : Nat) (o : Result) : Result :=
  andThen o fun t => .next (if t.resetDue then t else advance (n - (t.io.sys.cycles - start)) t)

/-- One instruction: fetch, decode, execute; an undefined opcode traps (R434, R442). A reset that becomes due while its
bytes are fetched abandons it (R490). -/
def runInstruction (s : State) : Result :=
  let f := fetchInstruction (s.setICleared false)
  let start := s.io.sys.cycles
  if f.2.resetDue then .next f.2
  else
    match decode f.1 with
    | .ok (i, _) => spend start (cyclesOf i f.2) (exec i f.2)
    | .error _ => spend start entryCycles (raiseIllegalOpcode s.cpu.pc f.2)

/-- A recognition point, then an instruction if nothing is taken (R438). -/
def runningStep (s : State) : Result :=
  match recognise s with
  | (some r, t) => spend t.io.sys.cycles entryCycles (takeInterrupt r t)
  | (none, t) => runInstruction t

/-- The wait state: an interrupt ends it, otherwise one E cycle passes (R421, R445). -/
def waitingStep (s : State) : Result :=
  match requestOf s with
  | some r => spend s.io.sys.cycles wakeCycles (.next (wakeFromWait r s))
  | none => .next (advance 1 s)

/-- The clocks run again after the stop state: the interrupt that ended it is taken, or execution resumes (R418). -/
def leaveStop (w : StopWake) (s : State) : Result :=
  let t := s.setRun .running
  match w with
  | .xirq => spend t.io.sys.cycles entryCycles (takeInterrupt .xirq t)
  | .irq => spend t.io.sys.cycles entryCycles (takeInterrupt (.maskable .irq) t)
  | .resume => .next t

/-- The stop state: no cycle passes until it ends, and OPTION.DLY puts a start-up delay before what follows (R418, R512,
notes/assumptions/12.md). -/
def stoppedStep (s : State) : Result :=
  match stopWake s with
  | some w => if bit s.io.sys.option 4 then .next (s.setRun (.starting startUpCycles w)) else leaveStop w s
  | none => .next s

/-- The start-up delay: the clocks run and no instruction does (R512). -/
def startingStep (left : Nat) (w : StopWake) (s : State) : Result :=
  match left with
  | 0 => leaveStop w s
  | k + 1 => .next (advance 1 (s.setRun (.starting k w)))

/-- One step, the outside world's moves made. -/
def stepFrom (s : State) : Result :=
  match s.io.sys.pendingReset with
  | some k => performReset k s
  | none =>
    match s.cpu.run with
    | .running => runningStep s
    | .waiting => waitingStep s
    | .stopped => stoppedStep s
    | .starting left w => startingStep left w s
    | .testing => .next (advance 1 s)

end Sys2Proof.Machine
end

