-- ==== Sys2Proof/Machine/Step.lean ====
section
/-! DEFINITION. The step function, and placing an instruction where the next step fetches it. -/

namespace Sys2Proof.Machine

/-- One step of the machine: the outside world moves, then the CPU, then the agents beside it (R438, R511). -/
def step (s : State) : Host.Outcome State Fault Refusal := stepFrom (takeInputs s)

/-- The state with a byte placed in the memory that answers at an address, read-only memory included; nothing where no
memory answers. -/
def State.place (s : State) (addr : Word) (v : Byte) : State :=
  match resolve s addr with
  | .register _ => s
  | .ram k => s.setMem { s.mem with ram := Memory.write s.mem.ram k v }
  | .bootRom n => s.setMem { s.mem with bootRom := Memory.write s.mem.bootRom n v }
  | .eeprom k => s.setMem { s.mem with eeprom := Memory.write s.mem.eeprom k v }
  | .rom n => s.setMem { s.mem with rom := Memory.write s.mem.rom n v }
  | .ext _ .device => s
  | .ext n _ => s.setMem { s.mem with ext := Memory.write s.mem.ext n v }
  | .nothing => s

/-- The state with bytes placed from an address on. -/
def State.placeAll (s : State) (addr : Word) : List Byte → State
  | [] => s
  | b :: bs => (s.place addr b).placeAll (addr + 1) bs

/-- The state whose next step runs the instruction with the bits `w`: its bytes, five in all, are placed at PC, and
nothing comes before it, neither an input nor a reset nor a wait (notes/assumptions/7.md). -/
def State.withFetchWord (s : State) (nbits w : Nat) : State :=
  let loaded := s.placeAll s.cpu.pc (tableBytes nbits w)
  { loaded with
    cpu := { loaded.cpu with run := .running, iCleared := false }
    io := { loaded.io with sys := { loaded.io.sys with pendingReset := none } }
    inputs := [] }

end Sys2Proof.Machine
end

