-- ==== Sys2Proof/Safety.lean ====
section
/-! DEFINITION. The terms claims use: kinds of addresses, the frames of the storing instructions, the legal states, and
safe runs. -/

namespace Sys2Proof.Machine

/-! Addresses. -/

/-- The address is in the register block. -/
def isRegister (s : State) (a : Word) : Bool :=
  match resolve s a with
  | .register _ => true
  | _ => false

/-- The address is memory: a read returns what it holds and changes nothing. -/
def isMemory (s : State) (a : Word) : Bool :=
  match resolve s a with
  | .ram _ => true
  | .bootRom _ => true
  | .eeprom _ => true
  | .rom _ => true
  | .ext _ .ram => true
  | .ext _ .rom => true
  | .ext _ .device => false
  | .register _ => false
  | .nothing => false

/-- The address is memory that holds what is stored there: internal RAM and external RAM. -/
def holdsStores (s : State) (a : Word) : Bool :=
  match resolve s a with
  | .ram _ => true
  | .ext _ .ram => true
  | _ => false

/-- `n` addresses from `a` on, modulo 2^16 (R133). -/
def span (a : Word) : Nat → List Word
  | 0 => []
  | n + 1 => a :: span (a + 1) n

/-- `n` bytes from `a` on hold what is stored there. -/
def ramAt (s : State) (a : Word) (n : Nat) : Bool := (span a n).all (holdsStores s)

/-- The bytes `bs` stand in memory from `a` on. -/
def codeAt (s : State) (a : Word) : List Byte → Bool
  | [] => true
  | b :: bs => isMemory s a && peek s a == b && codeAt s (a + 1) bs

/-- The 16-bit value at an address, without side effects. -/
def peekWord (s : State) (a : Word) : Word := join (peek s a) (peek s (a + 1))

/-- The address of the register at an offset from the base of the block (R40, R84). -/
def regAddr (s : State) (off : Nat) : Word := BitVec.ofNat 16 (s.io.sys.init.toNat % 16 * 4096 + off)

/-! Frames. -/

/-- Nothing but the CPU registers and the contents of memory differs. -/
def SameOutside (s t : State) : Prop :=
  t.io = s.io ∧ t.pins = s.pins ∧ t.params = s.params ∧ t.inputs = s.inputs ∧ t.draws = s.draws

/-- Every byte outside the listed addresses reads as before. -/
def SameMemoryBut (as : List Word) (s t : State) : Prop := ∀ a, a ∉ as → peek t a = peek s a

/-! Between accesses (R155, R490). -/

/-- No reset becomes due in the first `n` beats after `s`: an instruction with that many beats is not abandoned. -/
def quiet (n : Nat) (s : State) : Bool := !(beats n s).resetDue

/-- What time and the outside world leave alone between two accesses: the CPU, the memories, the parameters and what the map
depends on. -/
def SameCore (s t : State) : Prop :=
  t.cpu = s.cpu ∧ t.mem = s.mem ∧ t.params = s.params ∧ t.io.sys.init = s.io.sys.init ∧ t.io.sys.hprio = s.io.sys.hprio ∧
    t.io.sys.config = s.io.sys.config

/-! Reads and stores, as statements name them. -/

/-- The registers a read of which has a side effect (R151). -/
def readHasEffect : IoReg → Bool
  | .pioc => true
  | .portcl => true
  | .spsr => true
  | .spdr => true
  | .scsr => true
  | .scdr => true
  | _ => false

/-- `t` is `s` after reads: nothing differs but the ports, the SPI and the SCI, which hold the flag-clearing state, and the
count of free values (R151). -/
def AfterRead (s t : State) : Prop :=
  t = { s with
    io := { s.io with ports := t.io.ports, spi := t.io.spi, sci := t.io.sci }
    draws := t.draws }

/-- The operand `o` has the value `x` in `s`, and `t` is the state after it was read (R193, R173 to R177). -/
def Reads8 (o : Src8) (s : State) (x : Byte) (t : State) : Prop :=
  match o with
  | .imm ii => x = ii ∧ t = s
  | .mem m =>
    x = peek s (effectiveAddress m s) ∧ t = (readByte s (effectiveAddress m s)).2 ∧ AfterRead s t ∧
      (isMemory s (effectiveAddress m s) = true → t = s)

/-- The 16-bit operand `o` has the value `x` in `s`, and `t` is the state after its two bytes were read, the lower address
first, a beat between them (R193, R135, R507). -/
def Reads16 (o : Src16) (s : State) (x : Word) (t : State) : Prop :=
  match o with
  | .imm v => x = v ∧ t = s
  | .mem m =>
    let a := effectiveAddress m s
    let u := beat (readByte s a).2
    x = join (peek s a) (readByte u (a + 1)).1 ∧ t = (readByte u (a + 1)).2 ∧ AfterRead s (readByte s a).2 ∧ SameCore s u ∧
      AfterRead u t ∧ (isMemory s a = true → isMemory s (a + 1) = true → x = peekWord s a ∧ t = beat s)

/-- The bytes at a list of addresses, read in order with a beat between each two, and the state after. -/
def readAll : State → List Word → List Byte × State
  | s, [] => ([], s)
  | s, [a] => ([(readByte s a).1], (readByte s a).2)
  | s, a :: b :: as =>
    let r := readAll (beat (readByte s a).2) (b :: as)
    ((readByte s a).1 :: r.1, r.2)

/-- The state after a list of bytes is stored, in order with a beat between each two; a reset that becomes due in a beat ends
it there (R490). -/
def storeAll : State → List (Word × Byte) → State
  | s, [] => s
  | s, [(a, v)] => store s a v
  | s, (a, v) :: p :: l =>
    let u := beat (store s a v)
    if u.resetDue then u else storeAll u (p :: l)

/-- No store of the list that is reached is one the spec refuses. -/
def accepted : State → List (Word × Byte) → Bool
  | _, [] => true
  | s, [(a, v)] => (storeRefusal s a v).isNone
  | s, (a, v) :: p :: l =>
    let u := beat (store s a v)
    (storeRefusal s a v).isNone && (u.resetDue || accepted u (p :: l))

/-- `t` is `s` after the bytes of `l` are stored, with the frame: outside the register block nothing changes but the
bytes stored and what the beats between the stores change; a byte stored to RAM reads back, unless a reset abandons the
instruction. -/
def Stores (s : State) (l : List (Word × Byte)) (t : State) : Prop :=
  let u := beats (l.length - 1) s
  t = storeAll s l ∧ t.cpu = s.cpu ∧ t.params = s.params ∧ SameCore s u ∧
    ((∀ p ∈ l, isRegister s p.1 = false) → SameOutside u t ∧ SameMemoryBut (l.map Prod.fst) u t) ∧
    ((∀ p ∈ l, holdsStores s p.1 = true) → (l.map Prod.fst).Nodup → quiet (l.length - 1) s = true → ∀ p ∈ l, peek t p.1 = p.2)

/-- The outcome `o` stores the bytes of `l` from the state `u` on and leaves the CPU at `c`; it is a refusal exactly where
the spec refuses one of the stores that are reached. -/
def StoresThen (o : Result) (u : State) (l : List (Word × Byte)) (c : Cpu) : Prop :=
  (accepted u l = true → ∃ t, Stores u l t ∧ o = .next { t with cpu := c }) ∧
    (accepted u l = false → ∃ r, o = .refused r)

/-- The bytes of the interrupt frame, in the order they are pushed (R440). -/
def frameBytes (c : Cpu) (rtn : Word) : List (Word × Byte) :=
  [(c.sp, lo rtn), (c.sp - 1, hi rtn), (c.sp - 2, lo c.iy), (c.sp - 3, hi c.iy), (c.sp - 4, lo c.ix), (c.sp - 5, hi c.ix),
    (c.sp - 6, c.a), (c.sp - 7, c.b), (c.sp - 8, c.ccr.toByte)]

/-- The CPU in the tail of an exception entry, before PC is loaded: I is set, and X for XIRQ, and it runs (R440). -/
def maskedCpu (c : Cpu) (setX : Bool) : Cpu := { c with run := .running, ccr := { c.ccr with i := true, x := c.ccr.x || setX } }

/-- `o` is the state `m` after PC was loaded from the vector at `v`, with what `between` says happens between its two bytes
(R446). -/
def LoadsVector (between : State → State) (m : State) (v : Word) (o : Result) : Prop :=
  let r := readPair between m v
  o = .next { r.2 with cpu := { m.cpu with pc := r.1 } } ∧
    (isMemory m v = true → isMemory m (v + 1) = true → o = .next { between m with cpu := { m.cpu with pc := peekWord m v } })

/-- The outcome `o` is an exception entry from `s` with the return address `rtn` through the vector at `offset` from the
vector base, wherever the stack lies: nine stores, and a beat later the vector (R440, R446). -/
def EntersFrom (s : State) (rtn offset : Word) (setX : Bool) (o : Result) : Prop :=
  (accepted s (frameBytes s.cpu rtn) = true →
      ∃ t, Stores s (frameBytes s.cpu rtn) t ∧
        LoadsVector beat { beat t with cpu := maskedCpu { s.cpu with sp := s.cpu.sp - 9 } setX } (t.vectorBase + offset) o) ∧
    (accepted s (frameBytes s.cpu rtn) = false → ∃ r, o = .refused r)

/-- `o` is what follows the stop state that `w` ended, in `s`: execution resumes, or the entry of an XIRQ or IRQ interrupt
and its 14 cycles (R418, R444). -/
def LeavesStop (w : StopWake) (s : State) (o : Result) : Prop :=
  let c : Cpu := { s.cpu with run := .running }
  let enters (sys : Sys) (offset : Word) (setX : Bool) : Prop :=
    ∃ e, EntersFrom { s with cpu := { c with iCleared := false }, io := { s.io with sys := sys } } c.pc offset setX e ∧
      o = spend s.io.sys.cycles 14 e
  match w with
  | .resume => o = .next { s with cpu := c }
  | .xirq => enters s.io.sys 0xF4 true
  | .irq => enters { s.io.sys with irqLatch := false } 0xF2 false

/-- The instruction reads the byte at the effective address once, stores `f` of it and of C there a beat later, and gives
the flags `g` of it; a reset that becomes due in the beat abandons it before the store (R157, R160, R490). -/
def Modifies (i : Instr) (m : Ea) (f : Byte → Bool → Byte) (g : Byte → Ccr → Ccr) : Prop :=
  ∀ s, ∃ b u, Reads8 (.mem m) s b u ∧ SameCore s (beat u) ∧
    ((beat u).resetDue = true → exec i s = .next (beat u)) ∧
    ((beat u).resetDue = false →
      StoresThen (exec i s) (beat u) [(effectiveAddress m s, f b s.cpu.ccr.c)] { s.cpu with ccr := g b s.cpu.ccr })

/-! Output-compare pins. -/

/-- `now` is the level of the output-compare pin PA`k` after a compare of OC1 at the moment `oc1` and one of the pin's own
OCx at the moment `own`, none where there is none: OC1 acts where OC1M controls the pin and drives its OC1D bit, OCx as
OMx:OLx says, and the later acts last. Of two at one moment that disagree nothing is said (R53, R54, R59, R462, N23). -/
def PinFollows (t : Timer) (k : Nat) (oc1 own : Option Nat) (now : Bool) : Prop :=
  let om := bit t.tctl1 (2 * k - 5)
  let ol := bit t.tctl1 (2 * k - 6)
  let old := bit t.ocPins k
  let data := bit t.oc1d k
  let act (level : Bool) : Bool := if om then ol else if ol then !level else level
  match (if bit t.oc1m k then oc1 else none), (if om || ol then own else none) with
  | none, none => now = old
  | some _, none => now = data
  | none, some _ => now = act old
  | some a, some b => (a < b → now = act data) ∧ (b < a → now = data) ∧ (a = b → act old = data → now = data)

/-- The five pins, PA7 to PA3, from the timer `t` on, after compares of OC1 to OC5 at these moments. PA7 has none of its
own. -/
def PinsFollow (t : Timer) (oc1 oc2 oc3 oc4 oc5 : Option Nat) (pins : Byte) : Prop :=
  PinFollows t 7 oc1 none (bit pins 7) ∧ PinFollows t 6 oc1 oc2 (bit pins 6) ∧ PinFollows t 5 oc1 oc3 (bit pins 5) ∧
    PinFollows t 4 oc1 oc4 (bit pins 4) ∧ PinFollows t 3 oc1 oc5 (bit pins 3)

/-! Recognition points. -/

/-- Nothing comes before the next instruction: no reset is due, the CPU runs, and no request is taken (R438). -/
def runsNext (s : State) : Bool := s.io.sys.pendingReset.isNone && s.cpu.run == .running && (requestOf s).isNone

/-- The state with PC past `n` bytes of an instruction that starts at PC, the outside world having moved after each byte
(R16, R26, R155). -/
def pastInstruction (n : Nat) (s : State) : State :=
  let p := pauses n s
  { p with cpu := { p.cpu with pc := p.cpu.pc + BitVec.ofNat 16 n, iCleared := false } }

/-! Branches after a compare (R254, R396). -/

/-- `i` branches by `rr` exactly where `taken` holds, and changes nothing but PC. -/
def BranchesWhere (i : Byte → Instr) (taken : Bool) (t : State) : Prop :=
  ∀ rr, exec (i rr) t = .next { t with cpu := { t.cpu with pc := if taken then t.cpu.pc + rr.signExtend 16 else t.cpu.pc } }

/-- The flags after a compare of `x` with `m` say how they relate, and each branch that follows is taken where its relation
holds (R254, R396). -/
def BranchesCompare {w : Nat} (x m : BitVec w) (t : State) : Prop :=
  t.cpu.ccr.c = decide (x < m) ∧ t.cpu.ccr.z = decide (x = m) ∧
    (t.cpu.ccr.n ^^ t.cpu.ccr.v) = decide (x.toInt < m.toInt) ∧
    BranchesWhere .bhi (decide (m < x)) t ∧ BranchesWhere .bcc (decide (m ≤ x)) t ∧ BranchesWhere .beq (decide (x = m)) t ∧
    BranchesWhere .bls (decide (x ≤ m)) t ∧ BranchesWhere .bcs (decide (x < m)) t ∧ BranchesWhere .bne (decide (x ≠ m)) t ∧
    BranchesWhere .bgt (decide (m.toInt < x.toInt)) t ∧ BranchesWhere .bge (decide (m.toInt ≤ x.toInt)) t ∧
    BranchesWhere .ble (decide (x.toInt ≤ m.toInt)) t ∧ BranchesWhere .blt (decide (x.toInt < m.toInt)) t

/-! Decimal bytes. -/

/-- A packed BCD byte: both digits at most 9 (R274). -/
def isBcd (b : Byte) : Bool := b.toNat / 16 ≤ 9 && b.toNat % 16 ≤ 9

/-- The number a packed BCD byte stands for. -/
def bcdValue (b : Byte) : Nat := b.toNat / 16 * 10 + b.toNat % 16

/-! Flags, in the Boolean forms of R250 and R251. -/

/-- The carry out of bit `k` of r = x + m (+ carry in). -/
def carryOut (x m r : Byte) (k : Nat) : Bool :=
  (bit x k && bit m k) || (bit m k && !bit r k) || (!bit r k && bit x k)

/-- The borrow into bit 7 of r = x - m (- borrow in). -/
def borrowOut (x m r : Byte) : Bool := (!bit x 7 && bit m 7) || (bit m 7 && bit r 7) || (bit r 7 && !bit x 7)

/-- The flags of an 8-bit addition with result `r` (R250). -/
def addFlags (x m r : Byte) (c : Ccr) : Ccr :=
  { c with
    h := carryOut x m r 3
    n := bit r 7
    z := r == 0
    v := (bit x 7 && bit m 7 && !bit r 7) || (!bit x 7 && !bit m 7 && bit r 7)
    c := carryOut x m r 7 }

/-- The flags of an 8-bit subtraction with result `r` (R251). -/
def subFlags (x m r : Byte) (c : Ccr) : Ccr :=
  { c with
    n := bit r 7
    z := r == 0
    v := (bit x 7 && !bit m 7 && !bit r 7) || (!bit x 7 && bit m 7 && bit r 7)
    c := borrowOut x m r }

/-- The carry as a byte: what ADC adds and SBC subtracts. -/
def carryByte (c : Ccr) : Byte := flagBit 0 c.c

/-- The flags of a 16-bit addition x + m (R252). -/
def addFlagsWord (x m : Word) (c : Ccr) : Ccr :=
  { c with
    n := (x + m).msb
    z := x + m == 0
    v := (x.msb == m.msb) && ((x + m).msb != x.msb)
    c := decide (2 ^ 16 ≤ x.toNat + m.toNat) }

/-- The flags of a 16-bit subtraction x - m (R253). -/
def subFlagsWord (x m : Word) (c : Ccr) : Ccr :=
  { c with
    n := (x - m).msb
    z := x - m == 0
    v := (x.msb != m.msb) && ((x - m).msb != x.msb)
    c := decide (x.toNat < m.toNat) }

/-- N and Z from a byte, V = 0 (R36, R320). -/
def logicFlags (r : Byte) (c : Ccr) : Ccr := { c with n := bit r 7, z := r == 0, v := false }

/-- N and Z from a 16-bit value, V = 0 (R36). -/
def logicFlagsWord (r : Word) (c : Ccr) : Ccr := { c with n := r.msb, z := r == 0, v := false }

/-- The flags of a shift or rotate with result `r`, `out` the bit that left (R321). -/
def rotateFlags (r : Byte) (out : Bool) (c : Ccr) : Ccr := { c with n := bit r 7, z := r == 0, v := bit r 7 ^^ out, c := out }

/-! Legal states: the unimplemented bits read 0 (R40), the memories are canonical and hold no key that does not exist, the
programming latches are clear (R150), the part is not secured (R11), a slave's transfer runs only while SS is low (R473), a
conversion sequence only while ADPU = 1 (R475), and the running phases are in range. -/

/-- Every key is below the bound. -/
def Memory.below (n : Nat) (m : Memory) : Bool := m.all fun c => c.1 < n

def Ports.legal (p : Ports) : Bool := p.portd &&& 0xC0 = 0 && p.ddrd &&& 0xC0 = 0 && p.strbPulse ≤ 2

def Timer.legal (t : Timer) : Bool :=
  t.oc1m &&& 0x07 = 0 && t.oc1d &&& 0x07 = 0 && t.tmsk2 &&& 0x0C = 0 && t.tflg2 &&& 0x0F = 0 && t.ocPins &&& 0x07 = 0 &&
    t.prescale < timerPrescaler t.tmsk2

def Spi.legal (p : Spi) : Bool :=
  p.spsr &&& 0x2F = 0 && (!p.slaveBusy || bit p.spcr 6 && !bit p.spcr 4) &&
    (!p.left.isSome || bit p.spcr 6 && bit p.spcr 4) &&
    (match p.left with
      | none => true
      | some k => 0 < k && k ≤ 256)

def Sci.legal (d : Device) (p : Sci) : Bool := p.sccr1 &&& 0x27 = 0 && p.scsr &&& 0x01 = 0 && (isE20 d || !bit p.baud 6)

def Adc.legal (p : Adc) : Bool := p.adctl &&& 0x40 = 0

def Sys.legal (d : Device) (g : Sys) : Bool :=
  g.bprot &&& 0xE0 = 0 && g.eprog &&& 0x7F = 0 && (d = .mc68hc711e20 || g.eprog = 0) && g.option &&& 0x04 = 0 &&
    g.pprog &&& 0x23 = 0 && g.test1 &&& 0xF7 = 0 && (d = .mc68hc811e2 || g.config &&& 0xF0 = 0) && bit g.config 3 &&
    g.copCount ≤ g.cycles

/-- The start-up delay is at most the one R512 gives. -/
def RunState.legal : RunState → Bool
  | .running => true
  | .waiting => true
  | .stopped => true
  | .starting left _ => left ≤ 4064
  | .testing => true

/-- The invariant of every step. -/
def State.legal (s : State) : Bool :=
  s.cpu.run.legal &&
  s.mem.wf && Memory.below (ramSize s.params.device) s.mem.ram && Memory.below 65536 s.mem.ext && s.io.ports.legal &&
    s.io.timer.legal && s.io.spi.legal && (!s.io.spi.slaveBusy || !bit s.pins.portD 5) && s.io.sci.legal s.params.device &&
    s.io.adc.legal && (s.io.adc.next.isNone || bit s.io.sys.option 7) && s.io.sys.legal s.params.device

/-! Runs. -/

/-- The machine makes `k` steps from `s` without stopping. -/
def SafeRun (k : Nat) (s : State) : Prop := ∃ t, Sys2Proof.core.run k s = .next t

/-- What a safe run of one step needs: the step is not refused. -/
def SafeStep (s : State) : Prop := ∃ t, step s = .next t

end Sys2Proof.Machine
end

