-- ==== Sys2Proof/Certificates/Slice0/Obligations.lean ====
section
/-! DEFINITION. The statements for the provers, in the order of OBLIGATIONS.json. Each names the rules of spec/ it
formalises. -/

open Sys2Proof Sys2Proof.Machine

/-! Encoding. -/

/-- Words written out from Table 1, one or more for each family, decode to the instructions they stand for (R131, R171,
R181 to R184). -/
def Obligations.DecodesWrittenWords : Prop :=
  decode [0xA6, 0x7F] = .ok (.ldaa (.mem (.indX 0x7F)), []) ∧
    decode [0x18, 0xFF, 0x12, 0x34] = .ok (.sty (.ext 0x1234), []) ∧
    decode [0x1A, 0xEE, 0x05] = .ok (.ldy (.mem (.indX 0x05)), []) ∧
    decode [0xCD, 0xA3, 0x02] = .ok (.cpd (.mem (.indY 0x02)), []) ∧
    decode [0xC3, 0x01, 0x02] = .ok (.addd (.imm 0x0102), []) ∧
    decode [0x02] = .ok (.idiv, []) ∧
    decode [0x73, 0x20, 0x40] = .ok (.com (.ext 0x2040), []) ∧
    decode [0x15, 0x80, 0x0F] = .ok (.bclr (.dir 0x80) 0x0F, []) ∧
    decode [0x18, 0x1E, 0x04, 0x81, 0xFC] = .ok (.brset (.indY 0x04) 0x81 0xFC, []) ∧
    decode [0x2C, 0xFE] = .ok (.bge 0xFE, []) ∧
    decode [0x9D, 0x10, 0x77] = .ok (.jsr (.dir 0x10), [0x77]) ∧
    decode [0x3F] = .ok (.swi, [])

/-- Decoding the bytes of a well-formed instruction gives it back and leaves what follows (R170, R171, R179). -/
def Obligations.DecodeInvertsEncode : Prop :=
  ∀ (i : Instr) (rest : List Byte), i.wellFormed = true → decode (encode i ++ rest) = .ok (i, rest)

/-- Every word has one meaning and every instruction one word: what the decoder accepts is the encoding of what it answers
(R171, R181 to R184, R189). -/
def Obligations.EncodeInvertsDecode : Prop :=
  ∀ (bs : List Byte) (i : Instr) (rest : List Byte),
    decode bs = .ok (i, rest) → i.wellFormed = true ∧ bs = encode i ++ rest

/-- The twenty undefined opcodes of page 1; on pages 2, 3 and 4 every second byte but the 64, 7 and 4 of R182 to R184 is
undefined, 192, 249 and 252 values, and the decoder refuses them and no others; $00 is an illegal opcode outside the test modes
(R185). -/
def Obligations.UndefinedOpcodesAreExactlyThese : Prop :=
  let second2 : List Byte :=
    [0x08, 0x09, 0x1C, 0x1D, 0x1E, 0x1F, 0x30, 0x35, 0x38, 0x3A, 0x3C, 0x60, 0x63, 0x64, 0x66, 0x67,
      0x68, 0x69, 0x6A, 0x6C, 0x6D, 0x6E, 0x6F, 0x8C, 0x8F, 0x9C, 0xA0, 0xA1, 0xA2, 0xA3, 0xA4, 0xA5,
      0xA6, 0xA7, 0xA8, 0xA9, 0xAA, 0xAB, 0xAC, 0xAD, 0xAE, 0xAF, 0xBC, 0xCE, 0xDE, 0xDF, 0xE0, 0xE1,
      0xE2, 0xE3, 0xE4, 0xE5, 0xE6, 0xE7, 0xE8, 0xE9, 0xEA, 0xEB, 0xEC, 0xED, 0xEE, 0xEF, 0xFE, 0xFF]
  let second3 : List Byte := [0x83, 0x93, 0xA3, 0xB3, 0xAC, 0xEE, 0xEF]
  let second4 : List Byte := [0xA3, 0xAC, 0xEE, 0xEF]
  let undefined (listed : List Byte) : Nat := (List.range 256).countP fun n => !listed.contains (BitVec.ofNat 8 n)
  (∀ (b : Byte) (rest : List Byte),
      decode (b :: rest) = .error (.undefinedOpcode .page1 b) ↔
        b ∈ ([0x41, 0x42, 0x45, 0x4B, 0x4E, 0x51, 0x52, 0x55, 0x5B, 0x5E, 0x61, 0x62, 0x65, 0x6B, 0x71, 0x72, 0x75, 0x7B,
          0x87, 0xC7] : List Byte)) ∧
    (∀ (op : Byte) (rest : List Byte),
      (decode (0x18 :: op :: rest) = .error (.undefinedOpcode .page2 op) ↔ op ∉ second2) ∧
        (decode (0x1A :: op :: rest) = .error (.undefinedOpcode .page3 op) ↔ op ∉ second3) ∧
        (decode (0xCD :: op :: rest) = .error (.undefinedOpcode .page4 op) ↔ op ∉ second4)) ∧
    (undefined second2 = 192 ∧ undefined second3 = 249 ∧ undefined second4 = 252) ∧
    (∀ (b op : Byte) (p : Page) (rest : List Byte), pageOfPrebyte b = some p →
      (decode (b :: op :: rest) = .error (.undefinedOpcode p op) ↔ (lookup p op).isNone = true)) ∧
    ∀ s : State, s.smod = false → exec .test s = raiseIllegalOpcode (s.cpu.pc - 1) s

/-! The step. -/

/-- When nothing comes before the next instruction and the bytes at PC are those of an instruction, the step is the meaning
of that instruction with PC past its bytes, and then what is left of the time it takes; a reset that becomes due while its
bytes are fetched or between its accesses ends the step there (R16, R26, R438, R490, R511). The times are those of Table 1,
for every form, whatever the data are (R190, R510); WAI takes 12 before its wait, and TEST 14, as an exception entry, in the
normal modes and none of its own in the special ones (R420, R421). The model's choices: the outside world moves after each
fetched byte, and the rest of the cycles pass at the end (log entries 8, 9, 33); TEST's cycles (log entry 10); of the two counts
the spec gives BRSET and BRCLR with an index, those of R190 (log entry 41). -/
def Obligations.StepRunsDecodedInstruction : Prop :=
  (∀ (s : State) (bs : List Byte) (i : Instr),
    let u := takeInputs s
    let p := pastInstruction bs.length u
    runsNext u = true → codeAt u u.cpu.pc bs = true → decode bs = .ok (i, []) →
      (p.resetDue = true → step s = .next p) ∧
        (p.resetDue = false →
          (∀ t, exec i p = .next t →
              (t.resetDue = true → step s = .next t) ∧
                (t.resetDue = false →
                  step s = .next (advance (cyclesOf i p - (t.io.sys.cycles - u.io.sys.cycles)) t))) ∧
            ∀ r, exec i p = .refused r → step s = .refused r)) ∧
    ∀ (s : State) (m : Ea) (o : Src8) (w : Src16) (k r : Byte),
      let form (dir ext indX indY : Nat) (m : Ea) : Nat := match m with
        | .dir _ => dir
        | .ext _ => ext
        | .indX _ => indX
        | .indY _ => indY
      let source8 : Nat := match o with
        | .imm _ => 2
        | .mem m => form 3 4 4 5 m
      let source16 (imm dir ext indX indY : Nat) : Nat := match w with
        | .imm _ => imm
        | .mem m => form dir ext indX indY m
      let rmw := form 0 6 6 7 m
      let bits := form 6 0 7 8 m
      let take (n : Nat) (is : List Instr) : Prop := ∀ i ∈ is, i.wellFormed = true → cyclesOf i s = n
      take 2
          [.aba, .asla, .aslb, .asra, .asrb, .cba, .clc, .cli, .clra, .clrb, .clv, .coma, .comb, .daa, .deca, .decb, .inca,
            .incb, .lsra, .lsrb, .nega, .negb, .nop, .rola, .rolb, .rora, .rorb, .sba, .sec, .sei, .sev, .stop, .tab, .tap,
            .tba, .tpa, .tsta, .tstb] ∧
        take 3
          [.abx, .asld, .des, .dex, .ins, .inx, .lsrd, .psha, .pshb, .tsx, .txs, .xgdx, .bcc r, .bcs r, .beq r, .bge r,
            .bgt r, .bhi r, .ble r, .bls r, .blt r, .bmi r, .bne r, .bpl r, .bra r, .brn r, .bvc r, .bvs r] ∧
        take 4 [.aby, .dey, .iny, .pshx, .pula, .pulb, .tsy, .tys, .xgdy] ∧ take 5 [.pshy, .pulx, .rts] ∧
        take 6 [.puly, .bsr r] ∧ take 10 [.mul] ∧ take 12 [.rti, .wai] ∧ take 14 [.swi] ∧ take 41 [.fdiv, .idiv] ∧
        take (if s.smod then 0 else 14) [.test] ∧
        take source8
          [.adca o, .adcb o, .adda o, .addb o, .anda o, .andb o, .bita o, .bitb o, .cmpa o, .cmpb o, .eora o, .eorb o,
            .ldaa o, .ldab o, .oraa o, .orab o, .sbca o, .sbcb o, .suba o, .subb o] ∧
        take (source16 3 4 5 5 6) [.ldd w, .lds w, .ldx w] ∧ take (source16 4 5 6 6 6) [.ldy w] ∧
        take (source16 4 5 6 6 7) [.addd w, .subd w, .cpx w] ∧ take (source16 5 6 7 7 7) [.cpd w, .cpy w] ∧
        take (form 3 4 4 5 m) [.staa m, .stab m] ∧ take (form 4 5 5 6 m) [.std m, .sts m, .stx m] ∧
        take (form 5 6 6 6 m) [.sty m] ∧
        take rmw [.asl m, .asr m, .clr m, .com m, .dec m, .inc m, .lsr m, .neg m, .rol m, .ror m, .tst m] ∧
        take bits [.bclr m k, .bset m k, .brclr m k r, .brset m k r] ∧ take (form 0 3 3 4 m) [.jmp m] ∧
        take (form 5 6 6 7 m) [.jsr m]

/-- An undefined opcode, or a prebyte with an undefined second byte, takes the illegal opcode exception: the return address
is that of its first byte, the vector is $F8 (R186, R434, R440, R442). That 14 cycles pass, as for every entry, and that one of
them passes between each two accesses, is the model's choice (log entries 9 and 10). -/
def Obligations.UndefinedOpcodeTraps : Prop :=
  ∀ (s : State) (bs : List Byte) (p : Page) (op : Byte),
    let u := takeInputs s
    runsNext u = true → codeAt u u.cpu.pc bs = true → lookup p op = none →
      (bs = [op] ∧ p = .page1 ∧ pageOfPrebyte op = none ∨ ∃ b, bs = [b, op] ∧ pageOfPrebyte b = some p) →
      let p := pastInstruction bs.length u
      p.resetDue = false → ∃ o, EntersFrom p u.cpu.pc 0xF8 false o ∧ step s = spend u.io.sys.cycles 14 o

/-- A request taken between two instructions: the return address is PC, the frame is stacked, I is set, and X for XIRQ, PC
comes from the source's vector, and taking IRQ clears its edge latch (R440, R443, R444, R451). That 14 cycles pass is the
decision D33 of R440 and R511 as the model takes it (log entry 10, its choice), as is the cycle between each two accesses (log
entry 9); that the latch is cleared here is R451's GK26. -/
def Obligations.InterruptIsTakenBetweenInstructions : Prop :=
  ∀ (s : State) (r : Request),
    let u := takeInputs s
    let v : State :=
      { u with
        cpu := { u.cpu with iCleared := false }
        io := { u.io with sys := { u.io.sys with irqLatch := u.io.sys.irqLatch && r != .maskable .irq } } }
    u.io.sys.pendingReset = none → u.cpu.run = .running → requestOf u = some r → (r = .xirq ∨ u.cpu.iCleared = false) →
      (r = .xirq → r.vector = 0xF4 ∧ u.cpu.ccr.x = false) ∧
        ∃ o, EntersFrom v u.cpu.pc r.vector (r == .xirq) o ∧ step s = spend u.io.sys.cycles 14 o

/-- What is taken: XIRQ where its pin is low and X = 0; else, where I = 0, the winning pending source, a source being
pending where its request and its local mask are 1, and RWU = 1 inhibiting the requests of the SCI's receiver (R72, R432, R436,
R437, R438, R451). -/
def Obligations.RequestsFollowMasks : Prop :=
  ∀ s : State,
    (requestOf s = some .xirq ↔ s.pins.xirq = false ∧ s.cpu.ccr.x = false) ∧
      (∀ i, requestOf s = some (.maskable i) ↔
        ¬ (s.pins.xirq = false ∧ s.cpu.ccr.x = false) ∧ s.cpu.ccr.i = false ∧ winner s = some i) ∧
      (IntSource.ic1.pending s = (bit s.io.timer.tflg1 2 && bit s.io.timer.tmsk1 2)) ∧
      (IntSource.ic2.pending s = (bit s.io.timer.tflg1 1 && bit s.io.timer.tmsk1 1)) ∧
      (IntSource.ic3.pending s = (bit s.io.timer.tflg1 0 && bit s.io.timer.tmsk1 0)) ∧
      (IntSource.oc1.pending s = (bit s.io.timer.tflg1 7 && bit s.io.timer.tmsk1 7)) ∧
      (IntSource.oc2.pending s = (bit s.io.timer.tflg1 6 && bit s.io.timer.tmsk1 6)) ∧
      (IntSource.oc3.pending s = (bit s.io.timer.tflg1 5 && bit s.io.timer.tmsk1 5)) ∧
      (IntSource.oc4.pending s = (bit s.io.timer.tflg1 4 && bit s.io.timer.tmsk1 4)) ∧
      (IntSource.i4o5.pending s = (bit s.io.timer.tflg1 3 && bit s.io.timer.tmsk1 3)) ∧
      (IntSource.rti.pending s = (bit s.io.timer.tflg2 6 && bit s.io.timer.tmsk2 6)) ∧
      (IntSource.tof.pending s = (bit s.io.timer.tflg2 7 && bit s.io.timer.tmsk2 7)) ∧
      (IntSource.paov.pending s = (bit s.io.timer.tflg2 5 && bit s.io.timer.tmsk2 5)) ∧
      (IntSource.pai.pending s = (bit s.io.timer.tflg2 4 && bit s.io.timer.tmsk2 4)) ∧
      (IntSource.spi.pending s = ((bit s.io.spi.spsr 7 || bit s.io.spi.spsr 4) && bit s.io.spi.spcr 7)) ∧
      (IntSource.sci.pending s =
        ((bit s.io.sci.scsr 7 && bit s.io.sci.sccr2 7) || (bit s.io.sci.scsr 6 && bit s.io.sci.sccr2 6) ||
          (!bit s.io.sci.sccr2 1 &&
            (((bit s.io.sci.scsr 5 || bit s.io.sci.scsr 3) && bit s.io.sci.sccr2 5) ||
              (bit s.io.sci.scsr 4 && bit s.io.sci.sccr2 4))))) ∧
      (IntSource.irq.pending s =
        ((if bit s.io.sys.option 5 then s.io.sys.irqLatch else !s.pins.irq) ||
          (bit s.io.ports.pioc 7 && bit s.io.ports.pioc 6)))

/-- The source PSEL names is tried first, and the others keep their order, that of descending vectors; PSEL resets to IRQ;
promotion changes no vector and I still masks the promoted source; a write of HPRIO leaves PSEL alone while I = 0 (R450). The
fixed order is R439's, which the spec marks as general knowledge (GK14) and its decision D21. -/
def Obligations.PriorityFollowsVectorTable : Prop :=
  (∀ (s : State) (i : IntSource), winner s = some i →
      i.pending s = true ∧
        (i = promoted s.psel ∨ (promoted s.psel).pending s = false ∧ ∀ j : IntSource, j.pending s = true → j.vector ≤ i.vector)) ∧
    (∀ s : State, winner s = none ↔ ∀ j : IntSource, j.pending s = false) ∧
    (List.range 16).map promoted =
      [.tof, .paov, .pai, .spi, .sci, .irq, .irq, .rti, .ic1, .ic2, .ic3, .oc1, .oc2, .oc3, .oc4, .i4o5] ∧
    fixedOrder.map IntSource.vector =
      [0xF2, 0xF0, 0xEE, 0xEC, 0xEA, 0xE8, 0xE6, 0xE4, 0xE2, 0xE0, 0xDE, 0xDC, 0xDA, 0xD8, 0xD6] ∧
    (∀ s : State, (resetRegisters s).psel = 6) ∧ (∀ i : IntSource, (Request.maskable i).vector = i.vector) ∧
    (∀ (s : State) (i : IntSource), s.cpu.ccr.i = true → requestOf s ≠ some (.maskable i)) ∧
    ∀ (s : State) (w : Byte), s.cpu.ccr.i = false → (store s (regAddr s 0x3C) w).psel = s.psel

/-- After an instruction that cleared I, a pending maskable interrupt is taken before or right after the next instruction, and
nothing else can happen: that instruction, whichever it is, leaves no such latitude again, so that the request, if it is still
there, comes next (R96, R506, R438). Which of the two is a free value (log entry 19); the entry's 14 cycles are log entry 10. -/
def Obligations.LatitudeAfterClearingI : Prop :=
  ∀ (s : State) (i : IntSource),
    let u := takeInputs s
    let v : State := { u with draws := u.draws + 1 }
    u.io.sys.pendingReset = none → u.cpu.run = .running → u.cpu.iCleared = true → requestOf u = some (.maskable i) →
      (step s = spend u.io.sys.cycles 14 (takeInterrupt (.maskable i) v) ∨ step s = runInstruction v) ∧
        ∀ t, runInstruction v = .next t → t.cpu.iCleared = false

/-- The wait state: without a request one cycle passes and the wait goes on; a request sets the masks, loads PC from its
vector, stacks nothing, and takes two cycles (R421, R445). That a wait is stepped one cycle at a time is the model's choice
(log entry 10). -/
def Obligations.WaitEndsOnlyOnRequest : Prop :=
  ∀ s : State,
    let u := takeInputs s
    u.io.sys.pendingReset = none → u.cpu.run = .waiting →
      (requestOf u = none → step s = .next (advance 1 u)) ∧
        ∀ r, requestOf u = some r →
          ∃ o, LoadsVector beat
              { u with
                cpu := maskedCpu u.cpu (r == .xirq)
                io := { u.io with sys := { u.io.sys with irqLatch := u.io.sys.irqLatch && r != .maskable .irq } } }
              (u.vectorBase + r.vector) o ∧
            step s = spend u.io.sys.cycles 2 o

/-- The stop state ends on an XIRQ request, with its interrupt where X = 0 and without one where X = 1, and on an IRQ pin
request while I = 0 (R418, R437, R479); with OPTION.DLY = 1 a delay of 4064 cycles comes first (R512); the state of TEST is left
by a reset alone, a step without one changing no CPU register (R420). The model's choices: a low XIRQ resumes with X = 1, one
that was low before STOP included, and comes before a request on IRQ (log entry 37); a stopped step changes nothing, and what ended the stop is settled before the
delay, in which the clocks run (log entry 12); an entry takes 14 cycles (R440, log entry 10), one of them between each two
accesses (log entry 9). -/
def Obligations.StopEndsOnlyOnWakeEvents : Prop :=
  ∀ s : State,
    let u := takeInputs s
    let irq := (if bit u.io.sys.option 5 then u.io.sys.irqLatch else !u.pins.irq) && !u.cpu.ccr.i
    let inState (r : RunState) : State := { u with cpu := { u.cpu with run := r } }
    let ends (w : StopWake) : Prop :=
      (bit u.io.sys.option 4 = true → step s = .next (inState (.starting 4064 w))) ∧
        (bit u.io.sys.option 4 = false → LeavesStop w u (step s))
    u.io.sys.pendingReset = none →
      (u.cpu.run = .stopped →
        (u.pins.xirq = false → u.cpu.ccr.x = true → ends .resume) ∧
          (u.pins.xirq = false → u.cpu.ccr.x = false → ends .xirq) ∧
          (u.pins.xirq = true → irq = true → ends .irq) ∧
          (u.pins.xirq = true → irq = false → step s = .next u)) ∧
        (∀ k w, u.cpu.run = .starting (k + 1) w → step s = .next (advance 1 (inState (.starting k w)))) ∧
        (∀ w, u.cpu.run = .starting 0 w → LeavesStop w u (step s)) ∧
        (u.cpu.run = .testing → ∃ t, step s = .next t ∧ t.cpu = u.cpu ∧ t.mem = u.mem)

/-! Reset. -/

/-- A due reset comes before everything else: nothing is stacked, and PC is loaded from the vector of its kind through the
map and the vector base of the mode the pins select; a part that comes up secured is refused (R490, R491, R433, R11). The
model's choices: no cycle passes and nothing moves between the two bytes of the vector (log entry 9), the reset is a step of its
own that takes no cycle (log entry 33), and the refusal comes before the vector is fetched (log entry 28). -/
def Obligations.DueResetLoadsItsVector : Prop :=
  ∀ (s : State) (k : ResetKind),
    let u := takeInputs s
    let fresh := resetRegisters u
    let base : Word := if u.pins.modB then 0xFF00 else 0xBF00
    let offset : Word := match k with
      | .pin => 0xFE
      | .clockMonitor => 0xFC
      | .cop => 0xFA
    u.io.sys.pendingReset = some k →
      (bit fresh.io.sys.config 3 = true → LoadsVector id fresh (base + offset) (step s)) ∧
        (bit fresh.io.sys.config 3 = false → step s = .refused .securedPart)

/-- The CPU, the register block and the hidden state after a reset, where the spec gives a value; what it leaves unaffected
is kept; memory, pins and parameters stay (R492, R493, R494). That TEST1.DISR is 1 after a reset in the special modes is
R467's, which the spec marks as general knowledge (GK29): R493 does not give it. -/
def Obligations.ResetGivesRegisterValues : Prop :=
  ∀ s : State,
    let t := resetRegisters s
    (t.mem = s.mem ∧ t.pins = s.pins ∧ t.params = s.params ∧ t.inputs = s.inputs) ∧
      (t.cpu.ccr.s = true ∧ t.cpu.ccr.x = true ∧ t.cpu.ccr.i = true ∧ t.cpu.run = .running ∧ t.cpu.iCleared = false) ∧
      (t.io.ports.porta &&& 0x70 = 0 ∧ t.io.ports.pioc = (s.io.ports.pioc &&& 0x04) ||| 0x03 ∧ t.io.ports.portb = 0 ∧
        t.io.ports.ddrc = 0 ∧ t.io.ports.portd &&& 0xC0 = 0 ∧ t.io.ports.ddrd = 0 ∧ t.io.ports.stafArmed = false) ∧
      (t.io.timer =
        { s.io.timer with
          oc1m := 0, oc1d := 0, tcnt := 0, toc1 := 0xFFFF, toc2 := 0xFFFF, toc3 := 0xFFFF, toc4 := 0xFFFF, ti4o5 := 0xFFFF
          tctl1 := 0, tctl2 := 0, tmsk1 := 0, tflg1 := 0, tmsk2 := 0, tflg2 := 0, pactl := 0, prescale := 0
          ocPins := t.io.timer.ocPins }) ∧
      (t.io.spi.spcr = (s.io.spi.spcr &&& 0x03) ||| 0x04 ∧ t.io.spi.spsr = 0 ∧ t.io.spi.left = none ∧
        t.io.spi.slaveBusy = false ∧ t.io.spi.armed = 0) ∧
      (t.io.sci.baud = s.io.sci.baud &&& 0x07 ∧ t.io.sci.sccr1 &&& 0x3F = 0 ∧ t.io.sci.sccr2 = 0 ∧ t.io.sci.scsr = 0xC0 ∧
        t.io.sci.left = none ∧ t.io.sci.armed = 0) ∧
      t.io.adc.adctl &&& 0xC0 = 0 ∧
      (t.io.sys.bprot = 0x1F ∧ t.io.sys.eprog = 0 ∧ t.io.sys.option = 0x10 ∧ t.io.sys.pprog = 0 ∧
        t.io.sys.init = 0x01 ∧ (s.pins.modB = false → t.io.sys.test1 = 0x08)) ∧
      (t.io.sys.cycles = 0 ∧ t.io.sys.initWritten = false ∧ t.io.sys.prWritten = false ∧ t.io.sys.optionWritten = false ∧
        t.io.sys.bprotWritten = false ∧ t.io.sys.mdaWritten = false ∧ t.io.sys.irvWritten = false ∧
        t.io.sys.copArmed = false ∧ t.io.sys.copCount = 0 ∧ t.io.sys.irqLatch = false ∧ t.io.sys.pendingReset = none)

/-- The mode latch: SMOD is the inverse of MODB and MDA is MODA; RBOOT is 1 only in bootstrap mode and IRVNE only in special
test mode (R495). PSEL is 0110 (R83). -/
def Obligations.ResetLatchesMode : Prop :=
  ∀ s : State,
    let h := (resetRegisters s).io.sys.hprio
    bit h 6 = !s.pins.modB ∧ bit h 5 = s.pins.modA ∧ bit h 7 = (!s.pins.modB && !s.pins.modA) ∧
      bit h 4 = (!s.pins.modB && s.pins.modA) ∧ h &&& 0x0F = 0x06

/-- CONFIG after reset: ROMON is 1 in single chip mode, NOSEC is 1 in the modes with an external bus and wherever the
security option was not specified, NOCOP in the special modes is what the latch held, the other bits are those of the
non-volatile cells; on the MC68HC811E2 EE[3:0] and EEON are 1 in the modes without an external bus, and EEON is 0 in special
test mode (R11, R86, R87, R496; how its rows are read with R86's is log entry 16). -/
def Obligations.ResetLoadsConfig : Prop :=
  ∀ s : State,
    let c := (resetRegisters s).io.sys.config
    let nv := s.params.configNv
    let special := !s.pins.modB
    bit c 3 = (s.pins.modA || !s.params.securityMask || bit nv 3) ∧
      bit c 2 = (if special then bit s.io.sys.config 2 else bit nv 2) ∧
      (s.params.device ≠ .mc68hc811e2 →
        bit c 1 = ((!special && !s.pins.modA) || bit nv 1) ∧ bit c 0 = bit nv 0 ∧ c &&& 0xF0 = 0) ∧
      (s.params.device = .mc68hc811e2 →
        c &&& 0xF0 = (if s.pins.modA then nv &&& 0xF0 else 0xF0) ∧ bit c 1 = true ∧
          bit c 0 = (if s.pins.modA then !special && bit nv 0 else true))

/-- The reset state meets the invariant. -/
def Obligations.ResetStateIsLegal : Prop := State.reset.legal = true

/-! Invariants of every step. -/

/-- Every step keeps the invariant: the memories canonical and inside their arrays, the unimplemented bits 0, the
programming latches clear, the part not secured, and the phases in range (R11, R40, R137, R150). -/
def Obligations.StepKeepsLegal : Prop := ∀ s t : State, s.legal = true → step s = .next t → t.legal = true

/-- X is set by a reset and by XIRQ entry alone; TAP and RTI can clear it and cannot set it; while X = 1 XIRQ is not taken
(R34). -/
def Obligations.XIsSetOnlyByResetOrXirq : Prop :=
  (∀ s t : State, step s = .next t → t.cpu.ccr.x = true → s.cpu.ccr.x = false →
      (takeInputs s).io.sys.pendingReset.isSome = true ∨
        (t.cpu.ccr.i = true ∧ ((takeInputs s).pins.xirq = false ∨ s.cpu.run = .starting 0 .xirq))) ∧
    (∀ s t : State, exec .tap s = .next t → t.cpu.ccr.x = (s.cpu.ccr.x && bit s.cpu.a 6)) ∧
    (∀ s t : State, exec .rti s = .next t → t.cpu.ccr.x = (s.cpu.ccr.x && bit (peek s (s.cpu.sp + 1)) 6)) ∧
    ∀ s : State, s.cpu.ccr.x = true → requestOf s ≠ some .xirq

/-- SMOD is set by a reset alone (R83, R501). -/
def Obligations.SmodIsSetOnlyByReset : Prop :=
  ∀ s t : State, step s = .next t → t.smod = true → s.smod = true ∨ (takeInputs s).io.sys.pendingReset.isSome = true

/-- No step changes what ROM, EPROM, EEPROM, the bootstrap ROM or the CONFIG cells hold (R137, R150). -/
def Obligations.NonVolatileMemoryNeverChanges : Prop :=
  ∀ s t : State, step s = .next t →
    t.mem.rom = s.mem.rom ∧ t.mem.eeprom = s.mem.eeprom ∧ t.mem.bootRom = s.mem.bootRom ∧ t.params = s.params

/-- Nothing faults, and the model stops only on programming non-volatile memory, on the factory test facilities, and on a
reset that finds the part secured (R431, R150, R478, R11; log entries 27 and 28). -/
def Obligations.StepStopsOnlyAsSpecSays : Prop :=
  ∀ s : State,
    (∀ f, step s ≠ .fault f) ∧
      ∀ r, step s = .refused r →
        r = .programsNonVolatile ∨ r = .usesTestFacility ∨
          (r = .securedPart ∧ (takeInputs s).io.sys.pendingReset.isSome = true)

/-! Memory. -/

/-- Which resource answers: the register block, then RAM, then the bootstrap ROM, then EEPROM, then ROM or EPROM, then the
external bus or nothing (R136). That RBOOT needs SMOD and that a disabled ROM array answers with any value are the model's
readings (log entries 14 and 15). -/
def Obligations.MapPriority : Prop :=
  ∀ (s : State) (a : Word),
    let n := a.toNat
    let isReg := n / 4096 = s.io.sys.init.toNat % 16 ∧ n % 4096 ≤ 0x3F
    let isRam := n / 4096 = s.io.sys.init.toNat / 16 ∧ n % 4096 < ramSize s.params.device
    let isBoot := bit s.io.sys.hprio 7 ∧ bit s.io.sys.hprio 6 ∧ bootRomBase s.params.device ≤ n ∧ n ≤ 0xBFFF
    let inEe (r : Nat × Nat) : Prop :=
      bit s.io.sys.config 0 ∧ eepromRange s.params.device s.io.sys.config = some r ∧ r.1 ≤ n ∧ n < r.1 + r.2
    let isEe := ∃ r, inEe r
    let isRom := bit s.io.sys.config 1 ∧ romUse s.params.device n = .rom
    let isOff := bit s.io.sys.config 1 ∧ romUse s.params.device n = .disabled
    (isReg → resolve s a = .register (n % 4096)) ∧
      (¬ isReg → isRam → resolve s a = .ram (n % 4096)) ∧
      (¬ isReg → ¬ isRam → isBoot → resolve s a = .bootRom n) ∧
      (¬ isReg → ¬ isRam → ¬ isBoot → ∀ r, inEe r → resolve s a = .eeprom (n - r.1)) ∧
      (¬ isReg → ¬ isRam → ¬ isBoot → ¬ isEe → isRom → resolve s a = .rom n) ∧
      (¬ isReg → ¬ isRam → ¬ isBoot → ¬ isEe → isOff → resolve s a = .nothing) ∧
      (¬ isReg → ¬ isRam → ¬ isBoot → ¬ isEe → ¬ isRom → ¬ isOff →
        resolve s a = if s.mda then .ext n (extKind s.params.extMap n) else .nothing)

/-- A read changes nothing but the ports, the SPI, the SCI and the count of free values; a read of any address but PIOC,
PORTCL, SPSR, SPDR, SCSR and SCDR, be it a register, an external device or nothing, changes no register of the block and no
device, and one of memory nothing at all (R151). What reads of those six change is said by SerialFlagClearing and
PortsAndHandshake: flag-clearing state, and STRB, which a read of PORTCL makes active in full input handshake, the model's reading
(log entry 23, PRESUMED). -/
def Obligations.ReadsHaveOnlyTheseSideEffects : Prop :=
  ∀ (s : State) (a : Word),
    AfterRead s (readByte s a).2 ∧ (isMemory s a = true → readByte s a = (peek s a, s)) ∧
      (a ∉ [0x02, 0x05, 0x29, 0x2A, 0x2E, 0x2F].map (regAddr s) → (readByte s a).2.io = s.io) ∧
      ∀ off, resolve s a = .register off → readHasEffect (registerAt off) = false → (readByte s a).2.io = s.io

/-- Stores change the bytes stored and, in the register block, registers: never a CPU register, and outside the block no
other byte of memory and no register (R137, R150, R431). A write of a plain register sets its implemented bits, which a read
then returns, and changes nothing else; one of a read-only or reserved register changes nothing (R40, R44 to R66, R70, R71,
R75, R76, R79, R86, R87). The model's choices: a write of SCCR1 sets R8 (log entry 31); TCLR and RCKB of BAUD are stored, read
back and have no other effect (log entry 43); a write of PACNT sets no PAOVF (log entry 46). -/
def Obligations.StoresChangeOnlyTheirBytes : Prop :=
  (∀ (s : State) (l : List (Word × Byte)), Stores s l (storeAll s l)) ∧
    (∀ (s : State) (l : List (Word × Byte)), (∀ p ∈ l, isRegister s p.1 = false) → accepted s l = true) ∧
    (∀ (s : State) (a : Word) (v : Byte), holdsStores s a = false → isRegister s a = false → store s a v = s) ∧
    ∀ (s : State) (w : Byte),
      let p := s.io.ports
      let t := s.io.timer
      let c := s.io.sci
      let inPorts (x : Ports) : State := { s with io := { s.io with ports := x } }
      let inTimer (x : Timer) : State := { s with io := { s.io with timer := x } }
      let inSci (x : Sci) : State := { s with io := { s.io with sci := x } }
      let plain (off : Nat) (x : State) (v : Byte) : Prop :=
        writeByte s (regAddr s off) w = .next x ∧ readByte x (regAddr s off) = (v, x)
      (writeByte s (regAddr s 0x00) w = .next (inPorts { p with porta := w }) ∧
          writeByte s (regAddr s 0x03) w = .next (inPorts { p with portc := w }) ∧
          writeByte s (regAddr s 0x08) w = .next (inPorts { p with portd := w &&& 0x3F })) ∧
        plain 0x07 (inPorts { p with ddrc := w }) w ∧ plain 0x09 (inPorts { p with ddrd := w &&& 0x3F }) (w &&& 0x3F) ∧
        plain 0x0C (inTimer { t with oc1m := w &&& 0xF8 }) (w &&& 0xF8) ∧
        plain 0x0D (inTimer { t with oc1d := w &&& 0xF8 }) (w &&& 0xF8) ∧
        plain 0x16 (inTimer { t with toc1 := join w (lo t.toc1) }) w ∧ plain 0x17 (inTimer { t with toc1 := join (hi t.toc1) w }) w ∧
        plain 0x18 (inTimer { t with toc2 := join w (lo t.toc2) }) w ∧ plain 0x19 (inTimer { t with toc2 := join (hi t.toc2) w }) w ∧
        plain 0x1A (inTimer { t with toc3 := join w (lo t.toc3) }) w ∧ plain 0x1B (inTimer { t with toc3 := join (hi t.toc3) w }) w ∧
        plain 0x1C (inTimer { t with toc4 := join w (lo t.toc4) }) w ∧ plain 0x1D (inTimer { t with toc4 := join (hi t.toc4) w }) w ∧
        plain 0x1E (inTimer { t with ti4o5 := join w (lo t.ti4o5) }) w ∧
        plain 0x1F (inTimer { t with ti4o5 := join (hi t.ti4o5) w }) w ∧ plain 0x20 (inTimer { t with tctl1 := w }) w ∧
        plain 0x21 (inTimer { t with tctl2 := w }) w ∧ plain 0x22 (inTimer { t with tmsk1 := w }) w ∧
        plain 0x26 (inTimer { t with pactl := w }) w ∧ plain 0x27 (inTimer { t with pacnt := w }) w ∧
        (let v := if isE20 s.params.device then w else w &&& 0xBF
         plain 0x2B (inSci { c with baud := v }) v) ∧
        plain 0x2C (inSci { c with sccr1 := w &&& 0xD8 }) (w &&& 0xD8) ∧
        (∀ off ∈ ([0x01, 0x06, 0x0A, 0x10, 0x11, 0x12, 0x13, 0x14, 0x15, 0x29, 0x2E, 0x31, 0x32, 0x33, 0x34, 0x37, 0x38, 0x3F]
            : List Nat), writeByte s (regAddr s off) w = .next s) ∧
        (s.smod = false → ∀ off ∈ ([0x0E, 0x0F, 0x3E] : List Nat), writeByte s (regAddr s off) w = .next s) ∧
        [0x0E, 0x0F, 0x10, 0x11, 0x12, 0x13, 0x14, 0x15, 0x30, 0x31, 0x32, 0x33, 0x34, 0x3F].map
            (fun off => readByte s (regAddr s off)) =
          [hi t.tcnt, lo t.tcnt, hi t.tic1, lo t.tic1, hi t.tic2, lo t.tic2, hi t.tic3, lo t.tic3, s.io.adc.adctl, s.io.adc.adr1,
            s.io.adc.adr2, s.io.adc.adr3, s.io.adc.adr4, s.io.sys.config].map fun v => (v, s)

/-- The effective address of DIR, EXT and the indexed forms in every state, and a 16-bit value in memory: the more
significant byte at the lower address, for a read and for a write, addresses modulo 2^16, one byte after the other with a
beat between them, one E cycle in which the agents move, and where a due reset ends the write (R130, R135, R155, R174, R175,
R176, R490, R507). -/
def Obligations.AddressesAndByteOrder : Prop :=
  (∀ (s : State) (b : Byte) (w : Word),
      (effectiveAddress (.dir b) s).toNat = b.toNat ∧ effectiveAddress (.ext w) s = w ∧
        (effectiveAddress (.indX b) s).toNat = (s.cpu.ix.toNat + b.toNat) % 65536 ∧
        (effectiveAddress (.indY b) s).toNat = (s.cpu.iy.toNat + b.toNat) % 65536) ∧
    ∀ (s : State) (a v : Word),
      (isMemory s a = true → isMemory s (a + 1) = true →
          (readWord s a).1.toNat = (peek s a).toNat * 256 + (peek s (a + 1)).toNat ∧ (readWord s a).2 = beat s) ∧
        (readWord s a).1 = (readByte s a).1 ++ (readByte (beat (readByte s a).2) (a + 1)).1 ∧
        (writeWord s a v = andThen (writeByte s a (hi v)) fun t =>
          if (beat t).resetDue then .next (beat t) else writeByte (beat t) (a + 1) (lo v)) ∧
        (holdsStores s a = true → holdsStores s (a + 1) = true → quiet 1 s = true →
          ∃ t, writeWord s a v = .next t ∧ (peek t a).toNat = v.toNat / 256 ∧ (peek t (a + 1)).toNat = v.toNat % 256)

/-- The stores the model refuses are those that start the programming of non-volatile memory and those to TCNT, TEST1 and
the test bits of EPROG in the special modes (R55, R78, R82, R85, R150; log entry 27). -/
def Obligations.RefusedStores : Prop :=
  ∀ (s : State) (a : Word) (v : Byte),
    (storeRefusal s a v = some .programsNonVolatile ↔
        (a = regAddr s 0x3B ∧ (v &&& 0x03 ≠ 0 ∨ s.params.device = .mc68hc711e9 ∧ bit v 5)) ∨
          (a = regAddr s 0x36 ∧ s.params.device = .mc68hc711e20 ∧
            (bit v 5 ∧ bit s.io.sys.eprog 0 = false ∨ bit v 0 ∧ bit s.io.sys.eprog 5))) ∧
      (storeRefusal s a v = some .usesTestFacility ↔
        s.smod = true ∧
          (a = regAddr s 0x0E ∨ a = regAddr s 0x0F ∨ a = regAddr s 0x3E ∨
            a = regAddr s 0x36 ∧ s.params.device = .mc68hc711e20 ∧ v &&& 0x1E ≠ 0 ∧
              ¬ (bit v 5 ∧ bit s.io.sys.eprog 0 = false ∨ bit v 0 ∧ bit s.io.sys.eprog 5))) ∧
      (storeRefusal s a v = none ∨ storeRefusal s a v = some .programsNonVolatile ∨
        storeRefusal s a v = some .usesTestFacility)

/-! Loads, stores and transfers. -/

/-- LDAA, LDAB, LDD, LDS, LDX and LDY, every operand form: the operand is read once, N and Z are those of it, V = 0 (R203 to
R208). -/
def Obligations.LoadsRegisters : Prop :=
  (∀ (o : Src8) (s : State), ∃ x t, Reads8 o s x t ∧
      exec (.ldaa o) s = .next { t with cpu := { s.cpu with a := x, ccr := logicFlags x s.cpu.ccr } } ∧
      exec (.ldab o) s = .next { t with cpu := { s.cpu with b := x, ccr := logicFlags x s.cpu.ccr } }) ∧
    ∀ (o : Src16) (s : State), ∃ x t, Reads16 o s x t ∧
      exec (.ldd o) s = .next { t with cpu := { s.cpu with a := hi x, b := lo x, ccr := logicFlagsWord x s.cpu.ccr } } ∧
      exec (.lds o) s = .next { t with cpu := { s.cpu with sp := x, ccr := logicFlagsWord x s.cpu.ccr } } ∧
      exec (.ldx o) s = .next { t with cpu := { s.cpu with ix := x, ccr := logicFlagsWord x s.cpu.ccr } } ∧
      exec (.ldy o) s = .next { t with cpu := { s.cpu with iy := x, ccr := logicFlagsWord x s.cpu.ccr } }

/-- STAA, STAB, STD, STS, STX and STY: the bytes are stored at the effective address, high byte first, N and Z are those of
the value, V = 0 (R217 to R222). -/
def Obligations.StoresRegisters : Prop :=
  ∀ (m : Ea) (s : State),
    let a := effectiveAddress m s
    let word (w : Word) : List (Word × Byte) := [(a, hi w), (a + 1, lo w)]
    StoresThen (exec (.staa m) s) s [(a, s.cpu.a)] { s.cpu with ccr := logicFlags s.cpu.a s.cpu.ccr } ∧
      StoresThen (exec (.stab m) s) s [(a, s.cpu.b)] { s.cpu with ccr := logicFlags s.cpu.b s.cpu.ccr } ∧
      StoresThen (exec (.std m) s) s (word (join s.cpu.a s.cpu.b))
        { s.cpu with ccr := logicFlagsWord (join s.cpu.a s.cpu.b) s.cpu.ccr } ∧
      StoresThen (exec (.sts m) s) s (word s.cpu.sp) { s.cpu with ccr := logicFlagsWord s.cpu.sp s.cpu.ccr } ∧
      StoresThen (exec (.stx m) s) s (word s.cpu.ix) { s.cpu with ccr := logicFlagsWord s.cpu.ix s.cpu.ccr } ∧
      StoresThen (exec (.sty m) s) s (word s.cpu.iy) { s.cpu with ccr := logicFlagsWord s.cpu.iy s.cpu.ccr }

/-- TAB, TBA, TSX, TSY, TXS, TYS, XGDX, XGDY, ABX and ABY; INX, INY, DEX and DEY write Z alone, INS and DES no flag (R223,
R225, R227 to R232, R261, R262, R278 to R280, R286 to R288). -/
def Obligations.RegisterTransfers : Prop :=
  ∀ s : State,
    let d := join s.cpu.a s.cpu.b
    let withZ (c : Cpu) (r : Word) : State := { s with cpu := { c with ccr := { s.cpu.ccr with z := decide (r.toNat = 0) } } }
    exec .tab s = .next { s with cpu := { s.cpu with b := s.cpu.a, ccr := logicFlags s.cpu.a s.cpu.ccr } } ∧
      exec .tba s = .next { s with cpu := { s.cpu with a := s.cpu.b, ccr := logicFlags s.cpu.b s.cpu.ccr } } ∧
      exec .tsx s = .next { s with cpu := { s.cpu with ix := s.cpu.sp + 1 } } ∧
      exec .tsy s = .next { s with cpu := { s.cpu with iy := s.cpu.sp + 1 } } ∧
      exec .txs s = .next { s with cpu := { s.cpu with sp := s.cpu.ix - 1 } } ∧
      exec .tys s = .next { s with cpu := { s.cpu with sp := s.cpu.iy - 1 } } ∧
      exec .xgdx s = .next { s with cpu := { s.cpu with a := hi s.cpu.ix, b := lo s.cpu.ix, ix := d } } ∧
      exec .xgdy s = .next { s with cpu := { s.cpu with a := hi s.cpu.iy, b := lo s.cpu.iy, iy := d } } ∧
      exec .abx s = .next { s with cpu := { s.cpu with ix := BitVec.ofNat 16 (s.cpu.ix.toNat + s.cpu.b.toNat) } } ∧
      exec .aby s = .next { s with cpu := { s.cpu with iy := BitVec.ofNat 16 (s.cpu.iy.toNat + s.cpu.b.toNat) } } ∧
      exec .inx s = .next (withZ { s.cpu with ix := s.cpu.ix + 1 } (s.cpu.ix + 1)) ∧
      exec .iny s = .next (withZ { s.cpu with iy := s.cpu.iy + 1 } (s.cpu.iy + 1)) ∧
      exec .dex s = .next (withZ { s.cpu with ix := s.cpu.ix - 1 } (s.cpu.ix - 1)) ∧
      exec .dey s = .next (withZ { s.cpu with iy := s.cpu.iy - 1 } (s.cpu.iy - 1)) ∧
      exec .ins s = .next { s with cpu := { s.cpu with sp := s.cpu.sp + 1 } } ∧
      exec .des s = .next { s with cpu := { s.cpu with sp := s.cpu.sp - 1 } }

/-- PSHA, PSHB, PSHX and PSHY, wherever SP points: the low byte first, SP moving after each byte. PULA, PULB, PULX and PULY:
SP moving before each read, the high byte first, a beat between two bytes. No flag is written (R134, R155, R209 to R216). -/
def Obligations.PushesAndPulls : Prop :=
  ∀ s : State,
    let p := s.cpu.sp
    let word (w : Word) : List (Word × Byte) := [(p, lo w), (p - 1, hi w)]
    let one := readAll s [p + 1]
    let two := readAll s [p + 1, p + 2]
    let w := join (two.1.getD 0 0) (two.1.getD 1 0)
    (StoresThen (exec .psha s) s [(p, s.cpu.a)] { s.cpu with sp := p - 1 } ∧
        StoresThen (exec .pshb s) s [(p, s.cpu.b)] { s.cpu with sp := p - 1 } ∧
        StoresThen (exec .pshx s) s (word s.cpu.ix) { s.cpu with sp := p - 2 } ∧
        StoresThen (exec .pshy s) s (word s.cpu.iy) { s.cpu with sp := p - 2 }) ∧
      (exec .pula s = .next { one.2 with cpu := { s.cpu with a := one.1.getD 0 0, sp := p + 1 } } ∧
        exec .pulb s = .next { one.2 with cpu := { s.cpu with b := one.1.getD 0 0, sp := p + 1 } } ∧
        exec .pulx s = .next { two.2 with cpu := { s.cpu with ix := w, sp := p + 2 } } ∧
        exec .puly s = .next { two.2 with cpu := { s.cpu with iy := w, sp := p + 2 } }) ∧
      AfterRead s one.2 ∧ AfterRead (beat one.2) two.2 ∧ (isMemory s (p + 1) = true → one = ([peek s (p + 1)], s)) ∧
      (isMemory s (p + 1) = true → isMemory s (p + 2) = true → two = ([peek s (p + 1), peek s (p + 2)], beat s))

/-! Arithmetic. -/

/-- ADDA, ADDB, ADCA, ADCB and ABA: the result and H, N, Z, V, C of `add8`, in its Boolean forms, which are its arithmetic
ones (R250). -/
def Obligations.Adds8 : Prop :=
  (∀ (o : Src8) (s : State), ∃ x t, Reads8 o s x t ∧
      (let add (y : Byte) : Byte := y + x
       let adc (y : Byte) : Byte := y + x + carryByte s.cpu.ccr
       exec (.adda o) s =
          .next { t with cpu := { s.cpu with a := add s.cpu.a, ccr := addFlags s.cpu.a x (add s.cpu.a) s.cpu.ccr } } ∧
        exec (.addb o) s =
          .next { t with cpu := { s.cpu with b := add s.cpu.b, ccr := addFlags s.cpu.b x (add s.cpu.b) s.cpu.ccr } } ∧
        exec (.adca o) s =
          .next { t with cpu := { s.cpu with a := adc s.cpu.a, ccr := addFlags s.cpu.a x (adc s.cpu.a) s.cpu.ccr } } ∧
        exec (.adcb o) s =
          .next { t with cpu := { s.cpu with b := adc s.cpu.b, ccr := addFlags s.cpu.b x (adc s.cpu.b) s.cpu.ccr } })) ∧
    (∀ s : State,
      exec .aba s =
        .next { s with
          cpu := { s.cpu with
            a := s.cpu.a + s.cpu.b
            ccr := addFlags s.cpu.a s.cpu.b (s.cpu.a + s.cpu.b) s.cpu.ccr } }) ∧
    ∀ (x m : Byte) (c : Ccr),
      let f := addFlags x m (x + m + carryByte c) c
      f.c = decide (255 < x.toNat + m.toNat + c.c.toNat) ∧
        f.h = decide (15 < x.toNat % 16 + m.toNat % 16 + c.c.toNat) ∧
        f.v = (bit x 7 == bit m 7 && bit (x + m + carryByte c) 7 != bit x 7)

/-- SUBA, SUBB, SBCA, SBCB, SBA, CMPA, CMPB and CBA: the result and N, Z, V, C of `sub8`, C being the borrow; a compare
writes flags alone; H is not written (R251). -/
def Obligations.Subtracts8 : Prop :=
  (∀ (o : Src8) (s : State), ∃ x t, Reads8 o s x t ∧
      (let sub (y : Byte) : Byte := y - x
       let sbc (y : Byte) : Byte := y - x - carryByte s.cpu.ccr
       exec (.suba o) s =
          .next { t with cpu := { s.cpu with a := sub s.cpu.a, ccr := subFlags s.cpu.a x (sub s.cpu.a) s.cpu.ccr } } ∧
        exec (.subb o) s =
          .next { t with cpu := { s.cpu with b := sub s.cpu.b, ccr := subFlags s.cpu.b x (sub s.cpu.b) s.cpu.ccr } } ∧
        exec (.sbca o) s =
          .next { t with cpu := { s.cpu with a := sbc s.cpu.a, ccr := subFlags s.cpu.a x (sbc s.cpu.a) s.cpu.ccr } } ∧
        exec (.sbcb o) s =
          .next { t with cpu := { s.cpu with b := sbc s.cpu.b, ccr := subFlags s.cpu.b x (sbc s.cpu.b) s.cpu.ccr } } ∧
        exec (.cmpa o) s = .next { t with cpu := { s.cpu with ccr := subFlags s.cpu.a x (sub s.cpu.a) s.cpu.ccr } } ∧
        exec (.cmpb o) s = .next { t with cpu := { s.cpu with ccr := subFlags s.cpu.b x (sub s.cpu.b) s.cpu.ccr } })) ∧
    (∀ s : State,
      let f := subFlags s.cpu.a s.cpu.b (s.cpu.a - s.cpu.b) s.cpu.ccr
      exec .sba s = .next { s with cpu := { s.cpu with a := s.cpu.a - s.cpu.b, ccr := f } } ∧
        exec .cba s = .next { s with cpu := { s.cpu with ccr := f } }) ∧
    ∀ (x m : Byte) (c : Ccr),
      let f := subFlags x m (x - m - carryByte c) c
      f.c = decide (x.toNat < m.toNat + c.c.toNat) ∧
        f.v = (bit x 7 != bit m 7 && bit (x - m - carryByte c) 7 != bit x 7)

/-- ADDD, SUBD, CPD, CPX and CPY: the result and the flags of `add16` and `sub16`; H is not written (R252, R253). -/
def Obligations.Arithmetic16 : Prop :=
  ∀ (o : Src16) (s : State), ∃ x t, Reads16 o s x t ∧
    (let d := join s.cpu.a s.cpu.b
     exec (.addd o) s =
        .next { t with cpu := { s.cpu with a := hi (d + x), b := lo (d + x), ccr := addFlagsWord d x s.cpu.ccr } } ∧
      exec (.subd o) s =
        .next { t with cpu := { s.cpu with a := hi (d - x), b := lo (d - x), ccr := subFlagsWord d x s.cpu.ccr } } ∧
      exec (.cpd o) s = .next { t with cpu := { s.cpu with ccr := subFlagsWord d x s.cpu.ccr } } ∧
      exec (.cpx o) s = .next { t with cpu := { s.cpu with ccr := subFlagsWord s.cpu.ix x s.cpu.ccr } } ∧
      exec (.cpy o) s = .next { t with cpu := { s.cpu with ccr := subFlagsWord s.cpu.iy x s.cpu.ccr } })

/-- After a compare of r with m every branch of the two tables is taken exactly where its relation between r and m holds,
unsigned for BHI, BHS, BLS, BLO and signed for BGT, BGE, BLE, BLT (R254). -/
def Obligations.CompareThenBranch : Prop :=
  (∀ (o : Src8) (s : State), ∃ x t, Reads8 o s x t ∧
      (∃ u, exec (.cmpa o) s = .next u ∧ BranchesCompare s.cpu.a x u) ∧
        (∃ u, exec (.cmpb o) s = .next u ∧ BranchesCompare s.cpu.b x u)) ∧
    (∀ s : State, ∃ u, exec .cba s = .next u ∧ BranchesCompare s.cpu.a s.cpu.b u) ∧
    ∀ (o : Src16) (s : State), ∃ x t, Reads16 o s x t ∧
      (∃ u, exec (.cpd o) s = .next u ∧ BranchesCompare (join s.cpu.a s.cpu.b) x u) ∧
        (∃ u, exec (.cpx o) s = .next u ∧ BranchesCompare s.cpu.ix x u) ∧
        (∃ u, exec (.cpy o) s = .next u ∧ BranchesCompare s.cpu.iy x u)

/-- CLRA, CLRB, TSTA, TSTB, TST, INCA, INCB, DECA, DECB, NEGA, NEGB, COMA and COMB; INC and DEC keep C (R201, R202, R276,
R277, R284, R285, R291, R292, R299 to R301, R336, R337). -/
def Obligations.UnaryOperations : Prop :=
  ∀ s : State,
    let c := s.cpu.ccr
    let inA (r : Byte) (f : Ccr) : Result := .next { s with cpu := { s.cpu with a := r, ccr := f } }
    let inB (r : Byte) (f : Ccr) : Result := .next { s with cpu := { s.cpu with b := r, ccr := f } }
    let clr : Ccr := { c with n := false, z := true, v := false, c := false }
    let tst (m : Byte) : Ccr := { logicFlags m c with c := false }
    let inc (m : Byte) : Ccr := { logicFlags (m + 1) c with v := m == 0x7F }
    let dec (m : Byte) : Ccr := { logicFlags (m - 1) c with v := m == 0x80 }
    let neg (m : Byte) : Ccr := { logicFlags (0 - m) c with v := m == 0x80, c := m != 0 }
    let com (m : Byte) : Ccr := { logicFlags (~~~m) c with c := true }
    (exec .clra s = inA 0 clr ∧ exec .clrb s = inB 0 clr) ∧
      (exec .tsta s = inA s.cpu.a (tst s.cpu.a) ∧ exec .tstb s = inB s.cpu.b (tst s.cpu.b)) ∧
      (exec .inca s = inA (s.cpu.a + 1) (inc s.cpu.a) ∧ exec .incb s = inB (s.cpu.b + 1) (inc s.cpu.b)) ∧
      (exec .deca s = inA (s.cpu.a - 1) (dec s.cpu.a) ∧ exec .decb s = inB (s.cpu.b - 1) (dec s.cpu.b)) ∧
      (exec .nega s = inA (0 - s.cpu.a) (neg s.cpu.a) ∧ exec .negb s = inB (0 - s.cpu.b) (neg s.cpu.b)) ∧
      (exec .coma s = inA (~~~s.cpu.a) (com s.cpu.a) ∧ exec .comb s = inB (~~~s.cpu.b) (com s.cpu.b)) ∧
      ∀ m, ∃ x t, Reads8 (.mem m) s x t ∧ exec (.tst m) s = .next { t with cpu := { s.cpu with ccr := tst x } }

/-- MUL, IDIV and FDIV: the unsigned product with C its bit 7; quotient and remainder; where there is no quotient IX is
$FFFF and D any value (R281, R282, R289). -/
def Obligations.MultiplyAndDivide : Prop :=
  ∀ s : State,
    let d := join s.cpu.a s.cpu.b
    let p := s.cpu.a.toNat * s.cpu.b.toNat
    let done (i : Instr) (q r : Nat) : Prop :=
      exec i s =
        .next { s with
          cpu := { s.cpu with
            a := BitVec.ofNat 8 (r / 256)
            b := BitVec.ofNat 8 (r % 256)
            ix := BitVec.ofNat 16 q
            ccr := { s.cpu.ccr with z := q == 0, v := false, c := false } } }
    let none (i : Instr) (v c : Bool) : Prop :=
      ∃ a b, exec i s =
        .next { s with
          cpu := { s.cpu with a := a, b := b, ix := 0xFFFF, ccr := { s.cpu.ccr with z := false, v := v, c := c } }
          draws := s.draws + 1 }
    (exec .mul s =
        .next { s with
          cpu := { s.cpu with
            a := BitVec.ofNat 8 (p / 256)
            b := BitVec.ofNat 8 (p % 256)
            ccr := { s.cpu.ccr with c := p / 128 % 2 == 1 } } }) ∧
      (s.cpu.ix ≠ 0 → done .idiv (d.toNat / s.cpu.ix.toNat) (d.toNat % s.cpu.ix.toNat)) ∧
      (s.cpu.ix = 0 → none .idiv false true) ∧
      (d.toNat < s.cpu.ix.toNat →
        done .fdiv (d.toNat * 65536 / s.cpu.ix.toNat) (d.toNat * 65536 % s.cpu.ix.toNat)) ∧
      (s.cpu.ix ≠ 0 → s.cpu.ix.toNat ≤ d.toNat → none .fdiv true false) ∧
      (s.cpu.ix = 0 → none .fdiv true true)

/-- DAA after an addition of two packed-BCD bytes, with or without carry in, gives the packed-BCD sum and the decimal carry
and leaves H alone; V is any value (R274). In no state does it change anything but A, N, Z, V and C. -/
def Obligations.DecimalAdjust : Prop :=
  (∀ (x y : Byte) (s : State), isBcd x = true → isBcd y = true →
      let sum := bcdValue x + bcdValue y + s.cpu.ccr.c.toNat
      ∃ t u v, exec (.adca (.imm y)) { s with cpu := { s.cpu with a := x } } = .next t ∧ exec .daa t = .next u ∧
        isBcd u.cpu.a = true ∧ bcdValue u.cpu.a = sum % 100 ∧
        u = { t with
          cpu := { t.cpu with
            a := u.cpu.a
            ccr := { t.cpu.ccr with n := bit u.cpu.a 7, z := u.cpu.a == 0, v := v, c := decide (100 ≤ sum) } }
          draws := t.draws + 1 }) ∧
    ∀ s : State, ∃ a n z v c k, exec .daa s =
      .next { s with
        cpu := { s.cpu with a := a, ccr := { s.cpu.ccr with n := n, z := z, v := v, c := c } }
        draws := s.draws + k }

/-! Logic, shifts and bits. -/

/-- ANDA, ANDB, ORAA, ORAB, EORA, EORB, BITA and BITB: N and Z from the result, V = 0, C kept; BIT writes flags alone
(R320, R322, R323, R332, R333, R338, R339, R348, R349). -/
def Obligations.LogicOnAccumulators : Prop :=
  ∀ (o : Src8) (s : State), ∃ x t, Reads8 o s x t ∧
    (let inA (r : Byte) : Result := .next { t with cpu := { s.cpu with a := r, ccr := logicFlags r s.cpu.ccr } }
     let inB (r : Byte) : Result := .next { t with cpu := { s.cpu with b := r, ccr := logicFlags r s.cpu.ccr } }
     let flags (r : Byte) : Result := .next { t with cpu := { s.cpu with ccr := logicFlags r s.cpu.ccr } }
     exec (.anda o) s = inA (s.cpu.a &&& x) ∧ exec (.andb o) s = inB (s.cpu.b &&& x) ∧
      exec (.oraa o) s = inA (s.cpu.a ||| x) ∧ exec (.orab o) s = inB (s.cpu.b ||| x) ∧
      exec (.eora o) s = inA (s.cpu.a ^^^ x) ∧ exec (.eorb o) s = inB (s.cpu.b ^^^ x) ∧
      exec (.bita o) s = flags (s.cpu.a &&& x) ∧ exec (.bitb o) s = flags (s.cpu.b &&& x))

/-- The shifts and rotates of A, B and D: the bit that leaves goes to C, V = N exclusive-or C, a rotate takes C in (R321,
R325 to R327, R329, R330, R345 to R347, R351, R352, R354, R355). -/
def Obligations.ShiftsAccumulators : Prop :=
  ∀ s : State,
    let c := s.cpu.ccr
    let a := s.cpu.a.toNat
    let b := s.cpu.b.toNat
    let inA (r : Nat) (out : Nat) : Result :=
      .next { s with cpu := { s.cpu with a := BitVec.ofNat 8 r, ccr := rotateFlags (BitVec.ofNat 8 r) (out == 1) c } }
    let inB (r : Nat) (out : Nat) : Result :=
      .next { s with cpu := { s.cpu with b := BitVec.ofNat 8 r, ccr := rotateFlags (BitVec.ofNat 8 r) (out == 1) c } }
    let d := a * 256 + b
    let inD (r : Nat) (out : Bool) : Result :=
      .next { s with
        cpu := { s.cpu with
          a := BitVec.ofNat 8 (r / 256)
          b := BitVec.ofNat 8 (r % 256)
          ccr := { c with n := decide (32768 ≤ r), z := r == 0, v := decide (32768 ≤ r) ^^ out, c := out } } }
    (exec .asla s = inA (a * 2 % 256) (a / 128) ∧ exec .aslb s = inB (b * 2 % 256) (b / 128)) ∧
      (exec .lsra s = inA (a / 2) (a % 2) ∧ exec .lsrb s = inB (b / 2) (b % 2)) ∧
      (exec .asra s = inA (a / 2 + a / 128 * 128) (a % 2) ∧ exec .asrb s = inB (b / 2 + b / 128 * 128) (b % 2)) ∧
      (exec .rola s = inA (a * 2 % 256 + c.c.toNat) (a / 128) ∧ exec .rolb s = inB (b * 2 % 256 + c.c.toNat) (b / 128)) ∧
      (exec .rora s = inA (a / 2 + c.c.toNat * 128) (a % 2) ∧ exec .rorb s = inB (b / 2 + c.c.toNat * 128) (b % 2)) ∧
      exec .asld s = inD (d * 2 % 65536) (decide (32768 ≤ d)) ∧ exec .lsrd s = inD (d / 2) (d % 2 == 1)

/-- The memory forms of CLR, INC, DEC, NEG, COM, ASL, ASR, LSR, ROL and ROR, and BSET and BCLR: the byte is read once and
the result stored once at the same address, whatever it is; the agents move in between, where a reset that becomes due ends
the instruction (R157, R160, R200, R275, R283, R290, R324, R328, R331, R334, R335, R344, R350, R353, R490). That one cycle
passes in between is the model's choice (log entry 9). -/
def Obligations.ModifiesMemory : Prop :=
  ∀ (m : Ea) (k : Byte),
    Modifies (.clr m) m (fun _ _ => 0) (fun _ c => { c with n := false, z := true, v := false, c := false }) ∧
      Modifies (.inc m) m (fun b _ => b + 1) (fun b c => { logicFlags (b + 1) c with v := b == 0x7F }) ∧
      Modifies (.dec m) m (fun b _ => b - 1) (fun b c => { logicFlags (b - 1) c with v := b == 0x80 }) ∧
      Modifies (.neg m) m (fun b _ => 0 - b) (fun b c => { logicFlags (0 - b) c with v := b == 0x80, c := b != 0 }) ∧
      Modifies (.com m) m (fun b _ => ~~~b) (fun b c => { logicFlags (~~~b) c with c := true }) ∧
      Modifies (.asl m) m (fun b _ => b <<< 1) (fun b c => rotateFlags (b <<< 1) (bit b 7) c) ∧
      Modifies (.asr m) m (fun b _ => b.sshiftRight 1) (fun b c => rotateFlags (b.sshiftRight 1) (bit b 0) c) ∧
      Modifies (.lsr m) m (fun b _ => b >>> 1) (fun b c => rotateFlags (b >>> 1) (bit b 0) c) ∧
      Modifies (.rol m) m (fun b c => (b <<< 1) ||| flagBit 0 c)
        (fun b c => rotateFlags ((b <<< 1) ||| flagBit 0 c.c) (bit b 7) c) ∧
      Modifies (.ror m) m (fun b c => (b >>> 1) ||| flagBit 7 c)
        (fun b c => rotateFlags ((b >>> 1) ||| flagBit 7 c.c) (bit b 0) c) ∧
      Modifies (.bset m k) m (fun b _ => b ||| k) (fun b c => logicFlags (b ||| k) c) ∧
      Modifies (.bclr m k) m (fun b _ => b &&& ~~~k) (fun b c => logicFlags (b &&& ~~~k) c)

/-! Branches, jumps and subroutines. -/

/-- The sixteen branches, each under its condition, with the target relative to the next instruction, modulo 2^16 (R370,
R371 to R376, R378, R380 to R385, R387, R390, R391). -/
def Obligations.ConditionalBranches : Prop :=
  ∀ s : State,
    let f := s.cpu.ccr
    BranchesWhere .bra true s ∧ BranchesWhere .brn false s ∧ BranchesWhere .bcc (!f.c) s ∧ BranchesWhere .bcs f.c s ∧
      BranchesWhere .bne (!f.z) s ∧ BranchesWhere .beq f.z s ∧ BranchesWhere .bpl (!f.n) s ∧ BranchesWhere .bmi f.n s ∧
      BranchesWhere .bvc (!f.v) s ∧ BranchesWhere .bvs f.v s ∧ BranchesWhere .bhi (!f.c && !f.z) s ∧
      BranchesWhere .bls (f.c || f.z) s ∧ BranchesWhere .bge (!(f.n ^^ f.v)) s ∧ BranchesWhere .blt (f.n ^^ f.v) s ∧
      BranchesWhere .bgt (!(f.z || (f.n ^^ f.v))) s ∧ BranchesWhere .ble (f.z || (f.n ^^ f.v)) s

/-- BRSET branches where every bit of the mask is 1 in the byte and BRCLR where every one is 0; the byte is read once and
no flag is written (R386, R388). -/
def Obligations.BitBranches : Prop :=
  ∀ (m : Ea) (mm rr : Byte) (s : State), ∃ x t, Reads8 (.mem m) s x t ∧
    (let go (taken : Bool) : Result :=
      .next { t with cpu := { s.cpu with pc := if taken then s.cpu.pc + rr.signExtend 16 else s.cpu.pc } }
     exec (.brset m mm rr) s = go (decide (x &&& mm = mm)) ∧ exec (.brclr m mm rr) s = go (decide (x &&& mm = 0)))

/-- JMP loads PC and touches nothing else; JSR and BSR push the return address, low byte at SP and high byte below it,
wherever SP points, and load PC (R389, R392, R393). -/
def Obligations.JumpsAndCalls : Prop :=
  ∀ (m : Ea) (rr : Byte) (s : State),
    let p := s.cpu.sp
    let rtn := [(p, lo s.cpu.pc), (p - 1, hi s.cpu.pc)]
    exec (.jmp m) s = .next { s with cpu := { s.cpu with pc := effectiveAddress m s } } ∧
      StoresThen (exec (.jsr m) s) s rtn { s.cpu with sp := p - 2, pc := effectiveAddress m s } ∧
      StoresThen (exec (.bsr rr) s) s rtn { s.cpu with sp := p - 2, pc := s.cpu.pc + rr.signExtend 16 }

/-- RTS pulls PC, high byte first, wherever SP points (R394); after a call with the stack on RAM, no reset
coming between its stores, it restores PC and SP. -/
def Obligations.ReturnFromSubroutine : Prop :=
  (∀ s : State,
      let two := readAll s [s.cpu.sp + 1, s.cpu.sp + 2]
      exec .rts s =
        .next { two.2 with cpu := { s.cpu with pc := join (two.1.getD 0 0) (two.1.getD 1 0), sp := s.cpu.sp + 2 } }) ∧
    ∀ (m : Ea) (s : State), ramAt s (s.cpu.sp - 1) 2 = true → quiet 1 s = true →
      ∃ t, exec (.jsr m) s = .next t ∧ exec .rts t = .next { beat t with cpu := s.cpu }

/-! Condition codes and system. -/

/-- CLC, SEC, CLV, SEV, CLI, SEI, NOP, TAP and TPA: the flag named and no other; TAP cannot set X; CLI and TAP record that
they cleared I (R34, R96, R224, R226, R410 to R413, R415 to R417). -/
def Obligations.FlagInstructions : Prop :=
  ∀ s : State,
    let f := s.cpu.ccr
    let a := s.cpu.a
    let set (c : Ccr) : Result := .next { s with cpu := { s.cpu with ccr := c } }
    exec .clc s = set { f with c := false } ∧ exec .sec s = set { f with c := true } ∧
      exec .clv s = set { f with v := false } ∧ exec .sev s = set { f with v := true } ∧
      exec .sei s = set { f with i := true } ∧ exec .nop s = .next s ∧
      exec .cli s = .next { s with cpu := { s.cpu with ccr := { f with i := false }, iCleared := f.i } } ∧
      exec .tap s =
        .next { s with
          cpu := { s.cpu with
            ccr :=
              { s := bit a 7, x := f.x && bit a 6, h := bit a 5, i := bit a 4, n := bit a 3, z := bit a 2, v := bit a 1
                c := bit a 0 }
            iCleared := f.i && !bit a 4 } } ∧
      ∃ v : Byte, exec .tpa s = .next { s with cpu := { s.cpu with a := v } } ∧
        [bit v 7, bit v 6, bit v 5, bit v 4, bit v 3, bit v 2, bit v 1, bit v 0] = [f.s, f.x, f.h, f.i, f.n, f.z, f.v, f.c]

/-- STOP is a no-operation while S = 1 and stops the CPU while S = 0, where an enabled clock monitor makes a reset due; TEST
halts in the special modes and traps as an illegal opcode in the normal ones (R418, R420, R468). The model's choices: the halt
is a run state of its own (log entry 13), and one cycle passes between each two accesses of the trap's entry (log entry 9). -/
def Obligations.StopAndTest : Prop :=
  ∀ s : State,
    let due : Option ResetKind := match s.io.sys.pendingReset with
      | some .pin => some .pin
      | _ => some .clockMonitor
    let monitored := bit s.io.sys.option 3 && !(bit s.io.sys.hprio 6 && bit s.io.sys.test1 3)
    (s.cpu.ccr.s = true → exec .stop s = .next s) ∧
      (s.cpu.ccr.s = false → monitored = false → exec .stop s = .next { s with cpu := { s.cpu with run := .stopped } }) ∧
      (s.cpu.ccr.s = false → monitored = true →
        exec .stop s =
          .next { s with
            cpu := { s.cpu with run := .stopped }
            io := { s.io with sys := { s.io.sys with pendingReset := due } } }) ∧
      (s.smod = true → exec .test s = .next { s with cpu := { s.cpu with run := .testing } }) ∧
      (s.smod = false → EntersFrom s (s.cpu.pc - 1) 0xF8 false (exec .test s))

/-- SWI enters through $F6 with the address of the next instruction as its return address, whatever I and X hold; WAI stacks
the same frame and waits, writing no flag (R419, R421, R440, R441). The cycle between each two accesses is the model's choice
(log entry 9). -/
def Obligations.SoftwareInterruptAndWait : Prop :=
  ∀ s : State,
    EntersFrom s s.cpu.pc 0xF6 false (exec .swi s) ∧
      StoresThen (exec .wai s) s (frameBytes s.cpu s.cpu.pc) { s.cpu with sp := s.cpu.sp - 9, run := .waiting }

/-- RTI pulls CCR, B, A, IX, IY and PC in that order, wherever SP points; X can be cleared and not set (R414, R448). The cycle
between each two pulls is the model's choice (log entry 9). -/
def Obligations.ReturnFromInterrupt : Prop :=
  ∀ s : State,
    let p := s.cpu.sp
    let r := readAll s [p + 1, p + 2, p + 3, p + 4, p + 5, p + 6, p + 7, p + 8, p + 9]
    let b (k : Nat) : Byte := r.1.getD k 0
    let c := b 0
    exec .rti s =
      .next { r.2 with
        cpu := { s.cpu with
          ccr :=
            { s := bit c 7, x := s.cpu.ccr.x && bit c 6, h := bit c 5, i := bit c 4, n := bit c 3, z := bit c 2, v := bit c 1
              c := bit c 0 }
          b := b 1
          a := b 2
          ix := join (b 3) (b 4)
          iy := join (b 5) (b 6)
          pc := join (b 7) (b 8)
          sp := p + 9 } }

/-- An exception entry with the stack on RAM, no reset coming between its stores, and then RTI, from any state of the handler that kept the nine bytes and SP,
restores every CPU register the entry saved: A, B, IX, IY, SP, CCR, and PC at the return address (R440, R444, R448). The eight
beats are the model's choice (log entry 9). -/
def Obligations.ReturnRestoresEntry : Prop :=
  ∀ (s t u : State) (rtn offset : Word) (setX : Bool),
    ramAt s (s.cpu.sp - 8) 9 = true → quiet 8 s = true → takeException rtn offset setX s = .next t →
      (∀ a ∈ span (s.cpu.sp - 8) 9, isMemory u a = true ∧ peek u a = peek t a) → u.cpu.sp = t.cpu.sp →
      (s.cpu.ccr.x = true → u.cpu.ccr.x = true) →
      exec .rti u = .next
        { beats 8 u with cpu := { s.cpu with pc := rtn, run := u.cpu.run, iCleared := u.cpu.iCleared } }

/-! The devices. -/

/-- A write to TFLG1 or TFLG2 clears the flags written 1 and nothing else changes; BSET on either, whatever its mask, clears
every flag it read as set, and those of its mask; BCLR clears the flags it read as set outside its mask, so that a mask that is
the complement of a flag clears that flag alone; a flag that sets between the read and the write stays, but where the mask of
BSET has it (R157, R469, R503). The one cycle between them is the model's choice (log entry 9). -/
def Obligations.FlagRegistersClearOnes : Prop :=
  ∀ (s : State) (w : Byte) (m : Ea) (k : Byte),
    let with1 (x : State) (v : Byte) : State := { x with io := { x.io with timer := { x.io.timer with tflg1 := v } } }
    let with2 (x : State) (v : Byte) : State := { x with io := { x.io with timer := { x.io.timer with tflg2 := v } } }
    let old1 := s.io.timer.tflg1
    let old2 := s.io.timer.tflg2
    let u := beat s
    let flags (written : Byte) : Cpu := { s.cpu with ccr := logicFlags written s.cpu.ccr }
    let clears1 (written : Byte) : Result :=
      .next { with1 u (u.io.timer.tflg1 &&& ~~~written) with cpu := flags written }
    let clears2 (written : Byte) : Result :=
      .next { with2 u (u.io.timer.tflg2 &&& ~~~written &&& 0xF0) with cpu := flags written }
    writeByte s (regAddr s 0x23) w = .next (with1 s (old1 &&& ~~~w)) ∧
      writeByte s (regAddr s 0x25) w = .next (with2 s (old2 &&& ~~~w &&& 0xF0)) ∧
      (effectiveAddress m s = regAddr s 0x23 → quiet 1 s = true →
        exec (.bset m k) s = clears1 (old1 ||| k) ∧ exec (.bclr m k) s = clears1 (old1 &&& ~~~k)) ∧
      (effectiveAddress m s = regAddr s 0x25 → quiet 1 s = true →
        exec (.bset m k) s = clears2 (old2 ||| k) ∧ exec (.bclr m k) s = clears2 (old2 &&& ~~~k))

/-- INIT, TMSK2.PR, OPTION and BPROT: in the normal modes the protected bits change only in the first 64 cycles and only
once, in the special modes at any time; the other bits of the same write take effect at any time; ADPU, CSEL and CME are
not protected, and BPROT bits can always be set (R63, R77, R80, R84, R500). A changed PR restarts the division and an unchanged
one does not (R461); ADPU = 0 ends a conversion sequence (R475). The model's choices: which of the storing instruction's cycles
count (log entry 9), that a write in a special mode sets the latch (log entry 30), and that the sequence is not taken up again
when ADPU is set (log entry 26). -/
def Obligations.TimeProtectedWrites : Prop :=
  ∀ (s : State) (w : Byte),
    let g := s.io.sys
    let isOpen (written : Bool) : Bool := s.smod || (decide (g.cycles < 64) && !written)
    let early := decide (g.cycles < 64)
    let setSys (h : Sys) : State := { s with io := { s.io with sys := h } }
    writeByte s (regAddr s 0x3D) w =
        .next (setSys { g with init := if isOpen g.initWritten then w else g.init, initWritten := g.initWritten || early }) ∧
      (let old := s.io.timer
       let pr := (if isOpen g.prWritten then w else old.tmsk2) &&& 0x03
       writeByte s (regAddr s 0x24) w =
        .next { s with
          io := { s.io with
            timer := { old with
              tmsk2 := (w &&& 0xF0) ||| pr
              prescale := if pr = old.tmsk2 &&& 0x03 then old.prescale else 0 }
            sys := { g with prWritten := g.prWritten || early } } }) ∧
      (∃ t, writeByte s (regAddr s 0x39) w = .next t ∧
        t = { s with
          io := { s.io with
            sys := { g with option := t.io.sys.option, optionWritten := g.optionWritten || early }
            adc := { s.io.adc with next := if bit w 7 then s.io.adc.next else none } } } ∧
        t.io.sys.option &&& 0xC8 = w &&& 0xC8 ∧
        t.io.sys.option &&& 0x33 = (if isOpen g.optionWritten then w else g.option) &&& 0x33 ∧
        t.io.sys.option &&& 0x04 = 0) ∧
      writeByte s (regAddr s 0x35) w =
        .next (setSys
          { g with
            bprot := (if isOpen g.bprotWritten then w else g.bprot ||| w) &&& 0x1F
            bprotWritten := g.bprotWritten || early })

/-- HPRIO bit by bit: RBOOT and SMOD only in special modes, where a written 0 clears SMOD for good; MDA at any time in
special modes and once in normal ones; IRVNE once; PSEL only while I = 1. The vector base and the map follow: the register block and RAM stay, the bootstrap ROM is
there where RBOOT and SMOD are 1, and the external bus answers where MDA is 1, for what nothing inside answers (R136, R501,
R502). That RBOOT needs SMOD is the model's reading (log entry 14). -/
def Obligations.HprioBitRules : Prop :=
  ∀ (s : State) (w : Byte),
    let h := s.io.sys.hprio
    let special := bit h 6
    ∃ t, writeByte s (regAddr s 0x3C) w = .next t ∧
      t = { s with
        io := { s.io with
          sys := { s.io.sys with
            hprio := t.io.sys.hprio
            mdaWritten := t.io.sys.mdaWritten
            irvWritten := true } } } ∧
      (special = false → t.io.sys.mdaWritten = true) ∧
      bit t.io.sys.hprio 7 = (if special then bit w 7 else bit h 7) ∧
      bit t.io.sys.hprio 6 = (special && bit w 6) ∧
      bit t.io.sys.hprio 5 = (if special || !s.io.sys.mdaWritten then bit w 5 else bit h 5) ∧
      bit t.io.sys.hprio 4 = (if s.io.sys.irvWritten then bit h 4 else bit w 4) ∧
      t.io.sys.hprio &&& 0x0F = (if s.cpu.ccr.i then w else h) &&& 0x0F ∧
      t.vectorBase = (if special && bit w 6 then 0xBF00 else 0xFF00) ∧
      ∀ a : Word,
        let boot := special && bit w 6 && bit w 7
        let inside (x : State) : Prop := ∃ off, resolve x a = .register off ∨ resolve x a = .ram off
        (∀ off, (resolve t a = .register off ↔ resolve s a = .register off) ∧ (resolve t a = .ram off ↔ resolve s a = .ram off)) ∧
          (boot = true → ¬ inside s → bootRomBase s.params.device ≤ a.toNat → a.toNat ≤ 0xBFFF →
            resolve t a = .bootRom a.toNat) ∧
          (boot = false → ∀ n, resolve t a ≠ .bootRom n) ∧
          (t.mda = false → ∀ n k, resolve t a ≠ .ext n k) ∧
          (t.mda = true → resolve t a = .nothing → bit s.io.sys.config 1 = true ∧ romUse s.params.device a.toNat = .disabled)

/-- A read of SCSR arms every flag it returns as 1; a write of SCDR clears the armed ones of TDRE and TC, a read the armed
ones of RDRF, IDLE, OR, NF and FE; SCSR is read-only (R471). A read of SPSR arms likewise; a read or a write of SPDR clears the
armed ones of SPIF and WCOL, the write setting WCOL anew where it collides with a transfer; a write of SPCR clears an armed
MODF (R473, R474). These are the model's choices: that a colliding write which also clears an armed WCOL leaves it at 1 (log
entry 25); that a write of SCDR clears an armed TC where it starts nothing to send too (log entry 24). -/
def Obligations.SerialFlagClearing : Prop :=
  ∀ (s : State) (w : Byte),
    let c := s.io.sci
    let p := s.io.spi
    let sci (x : Sci) : State := { s with io := { s.io with sci := x } }
    let spi (x : Spi) : State := { s with io := { s.io with spi := x } }
    readByte s (regAddr s 0x2E) = (c.scsr, sci { c with armed := c.armed ||| c.scsr }) ∧
      readByte s (regAddr s 0x2F) =
        (c.rx, sci { c with scsr := c.scsr &&& ~~~(c.armed &&& 0x3E), armed := c.armed &&& 0xC1 }) ∧
      writeByte s (regAddr s 0x2F) w =
        .next (sci { c with scsr := c.scsr &&& ~~~(c.armed &&& 0xC0), armed := c.armed &&& 0x3F, tx := w }) ∧
      writeByte s (regAddr s 0x2E) w = .next s ∧
      readByte s (regAddr s 0x29) = (p.spsr, spi { p with armed := p.armed ||| p.spsr }) ∧
      readByte s (regAddr s 0x2A) =
        (p.rx, spi { p with spsr := p.spsr &&& ~~~(p.armed &&& 0xC0), armed := p.armed &&& 0x3F }) ∧
      (∃ t, writeByte s (regAddr s 0x2A) w = .next t ∧ t = spi t.io.spi ∧ t.io.spi.armed = p.armed &&& 0x3F ∧
        t.io.spi.rx = p.rx ∧
        t.io.spi.spsr = (p.spsr &&& ~~~(p.armed &&& 0xC0)) ||| (if p.left.isSome || p.slaveBusy then 0x40 else 0)) ∧
      (∃ t, writeByte s (regAddr s 0x28) w = .next t ∧
        t.io.spi.spsr = p.spsr &&& ~~~(p.armed &&& 0x10) ∧ t.io.spi.armed = p.armed &&& 0xEF ∧ t.io.spi.spcr = w)

/-- The COP: $55 then $AA on COPRST restarts it, nothing else does; while it is disabled no reset is due from it; enabled,
it is not due before the nominal timeout and is due from one E/2^15 period after it on (R93, R467). That it counts while it is
disabled is the model's choice (log entry 11). -/
def Obligations.CopWatchdog : Prop :=
  ∀ (s : State) (w : Byte) (n : Nat),
    let g := s.io.sys
    let enabled := !bit g.config 2 && !(bit g.hprio 6 && bit g.test1 3)
    let timeout := 2 ^ (15 + 2 * (g.option.toNat % 4))
    let written (x : Sys) : Prop := writeByte s (regAddr s 0x3A) w = .next { s with io := { s.io with sys := x } }
    (w = 0x55 → written { g with copArmed := true }) ∧
      (w = 0xAA → g.copArmed = true → written { g with copArmed := false, copCount := 0 }) ∧
      (w = 0xAA → g.copArmed = false → written g) ∧ (w ≠ 0x55 → w ≠ 0xAA → written g) ∧
      (enabled = false → (advance n s).io.sys.pendingReset = g.pendingReset) ∧
      (g.copCount + n < timeout → (advance n s).io.sys.pendingReset = g.pendingReset) ∧
      (enabled = true → timeout + 2 ^ 15 ≤ g.copCount + n → (advance n s).io.sys.pendingReset.isSome = true) ∧
      (advance n s).io.sys.copCount = g.copCount + n

/-- Time: TCNT counts once every 1, 4, 8 or 16 cycles, TOF sets as it passes from $FFFF to $0000, a compare flag sets where
TCNT meets its register, RTIF sets at the end of each period counted from reset, PACNT counts once every 64 cycles in gated
mode while PA7 is not at the inhibiting level, PAOVF setting as it passes from $FF to $00, the phase of the prescaler is
carried, no flag is cleared and no other register changes; the compares act on the pins PA7 to PA3 at their moments (R53, R54,
R59, R460 to R462, R464, R465, R466, R511). A write of CFORC makes the actions of the compares written 1 at once, sets no flag
and reads 0 (R52). The model's choices: when a step's cycles pass (log entry 9); the 64 are counted from reset (log entry 44);
PA7 is the level the outside puts there, while the chip drives the pin too, two compares at one moment that disagree leave any
level, and FOC5 does nothing while PACTL.I4/O5 = 1 (log entry 20). -/
def Obligations.TimeMovesTheTimer : Prop :=
  ∀ (n : Nat) (w : Byte) (s : State),
    let t := s.io.timer
    let rate : Nat := match t.tmsk2.toNat % 4 with
      | 0 => 1
      | 1 => 4
      | 2 => 8
      | _ => 16
    let counts := (t.prescale + n) / rate
    let u := (advance n s).io.timer
    let gated : Nat :=
      if bit t.pactl 6 && bit t.pactl 5 && bit s.pins.portA 7 != bit t.pactl 4 then
        (s.io.sys.cycles + n) / 64 - s.io.sys.cycles / 64
      else 0
    let moment (r : Word) : Option Nat := (List.range counts).find? fun j => t.tcnt + BitVec.ofNat 16 (j + 1) == r
    let meets (r : Word) : Bool := (moment r).isSome
    let oc5 (time : Option Nat) : Option Nat := if bit t.pactl 2 then none else time
    let forced (k : Nat) : Option Nat := if bit w k then some 0 else none
    (advance n s).cpu = s.cpu ∧ (advance n s).mem = s.mem ∧
      u.tcnt = BitVec.ofNat 16 (t.tcnt.toNat + counts) ∧ u.prescale = (t.prescale + n) % rate ∧
      u =
        { t with
          tcnt := u.tcnt, prescale := u.prescale, tflg1 := u.tflg1, tflg2 := u.tflg2, pacnt := u.pacnt, ocPins := u.ocPins } ∧
      (u.tflg1 &&& 0x07 = t.tflg1 &&& 0x07 ∧ u.tflg2 &&& 0x0F = t.tflg2 &&& 0x0F) ∧
      (n ≤ 65536 →
        PinsFollow t (moment t.toc1) (moment t.toc2) (moment t.toc3) (moment t.toc4) (oc5 (moment t.ti4o5)) u.ocPins) ∧
      (∃ x, writeByte s (regAddr s 0x0B) w = .next x ∧
        x = { s with io := { s.io with timer := { t with ocPins := x.io.timer.ocPins } }, draws := x.draws } ∧
        PinsFollow t (forced 7) (forced 6) (forced 5) (forced 4) (oc5 (forced 3)) x.io.timer.ocPins) ∧
      readByte s (regAddr s 0x0B) = (0, s) ∧
      bit u.tflg2 7 = (bit t.tflg2 7 || decide (65536 ≤ t.tcnt.toNat + counts)) ∧
      (bit u.tflg1 7 = (bit t.tflg1 7 || meets t.toc1) ∧ bit u.tflg1 6 = (bit t.tflg1 6 || meets t.toc2) ∧
        bit u.tflg1 5 = (bit t.tflg1 5 || meets t.toc3) ∧ bit u.tflg1 4 = (bit t.tflg1 4 || meets t.toc4) ∧
        bit u.tflg1 3 = (bit t.tflg1 3 || (!bit t.pactl 2 && meets t.ti4o5))) ∧
      bit u.tflg2 6 =
        (bit t.tflg2 6 ||
          decide (s.io.sys.cycles / 2 ^ (13 + t.pactl.toNat % 4) < (s.io.sys.cycles + n) / 2 ^ (13 + t.pactl.toNat % 4))) ∧
      (u.pacnt = BitVec.ofNat 8 (t.pacnt.toNat + gated) ∧ bit u.tflg2 4 = bit t.tflg2 4 ∧
        bit u.tflg2 5 = (bit t.tflg2 5 || decide (256 ≤ t.pacnt.toNat + gated))) ∧
      (advance n s).io.sys.cycles = s.io.sys.cycles + n

/-- Moves of the outside world: a falling IRQ pin sets the edge latch while IRQE = 1; a selected edge on PA2, PA1 or PA0, or
on PA3 where it is IC4, copies TCNT into its capture register and sets its flag, and an edge that is not selected changes
neither; in event mode the selected edge on PA7 counts PACNT and sets PAIF, and PAOVF where PACNT passes from $FF to $00;
nothing the outside does touches a CPU register or memory (R90, R451, R463, R466). That the levels are the outside's alone is
the model's choice (log entry 20). -/
def Obligations.InputEdges : Prop :=
  (∀ (s : State) (l : Bool), (applyInput s (.irqPin l)).io.sys.irqLatch =
      (s.io.sys.irqLatch || (bit s.io.sys.option 5 && s.pins.irq && !l))) ∧
    (∀ (s : State) (v : Byte), s.cpu.run ≠ .stopped →
      let t := s.io.timer
      let u := (applyInput s (.portA v)).io.timer
      let hit (k pin : Nat) : Bool :=
        (bit t.tctl2 k && !bit s.pins.portA pin && bit v pin) || (bit t.tctl2 (k + 1) && bit s.pins.portA pin && !bit v pin)
      let ic4 := bit t.pactl 2 && hit 6 3
      let event := bit t.pactl 6 && !bit t.pactl 5 && bit s.pins.portA 7 != bit v 7 && bit v 7 == bit t.pactl 4
      ((u.tic1 = if hit 4 2 then t.tcnt else t.tic1) ∧ (u.tic2 = if hit 2 1 then t.tcnt else t.tic2) ∧
        (u.tic3 = if hit 0 0 then t.tcnt else t.tic3) ∧ (u.ti4o5 = if ic4 then t.tcnt else t.ti4o5) ∧
        bit u.tflg1 2 = (bit t.tflg1 2 || hit 4 2) ∧ bit u.tflg1 1 = (bit t.tflg1 1 || hit 2 1) ∧
        bit u.tflg1 0 = (bit t.tflg1 0 || hit 0 0) ∧ bit u.tflg1 3 = (bit t.tflg1 3 || ic4)) ∧
        u.pacnt = t.pacnt + (if event then 1 else 0) ∧
        bit u.tflg2 5 = (bit t.tflg2 5 || (event && t.pacnt == 0xFF)) ∧
        ((bit t.pactl 6 && bit t.pactl 5) = false → bit u.tflg2 4 = (bit t.tflg2 4 || event))) ∧
    ∀ (s : State) (i : Input), (applyInput s i).cpu = s.cpu ∧ (applyInput s i).mem = s.mem

/-- A master transfer: a write of SPDR while no transfer runs starts one of 16, 32, 128 or 256 cycles; it ends with the byte
of the other side in the read buffer and SPIF set. A slave transfer runs from the external master's start, with SS low, to its
last bit, and ends likewise, or without SPIF when SS rises. A write during either sets WCOL and does not disturb it. SS pulled
low with SPE = MSTR = 1 sets MODF (R68, R473). An A/D conversion: a write of
ADCTL clears CCF; the four results fill ADR1 to ADR4, CCF sets after the fourth, and a new sequence starts exactly where
SCAN = 1, while ADPU = 1, and a converter that is powered down finishes none (R475). That a conversion ends at an input, and
that a write of ADCTL with ADPU = 0 stops the sequence, is the model's choice (log entry 26). These are the model's choices
too, those of log entry 25, and no rule of the spec: a slave's transfer starts and ends at inputs; MODF needs SPE = 1; a byte
stored while the master is not enabled stands in the shift register and starts no transfer; the length of a master's transfer is
that of SPR at the write of SPDR, since the cycles left then are all that is counted; the shift register keeps the byte sent;
a byte received while SPIF is still 1 replaces the unread one; SS rising ends a slave's transfer without SPIF, with the clocks
stopped too; a write that collides leaves WCOL at 1 where it is the clearing access of an armed WCOL too. -/
def Obligations.TransfersAndConversions : Prop :=
  ∀ (s : State) (w : Byte),
    let p := s.io.spi
    let time : Nat := match p.spcr.toNat % 4 with
      | 0 => 16
      | 1 => 32
      | 2 => 128
      | _ => 256
    let busy := p.left.isSome || p.slaveBusy
    let received (d : Byte) : Spi := { p with left := none, slaveBusy := false, rx := d, spsr := p.spsr ||| 0x80 }
    let a := s.io.adc
    (∃ t, writeByte s (regAddr s 0x2A) w = .next t ∧ t.io.spi.slaveBusy = p.slaveBusy ∧
        (busy = false → bit p.spcr 6 = true → bit p.spcr 4 = true → t.io.spi.left = some time ∧ t.io.spi.shift = w) ∧
        (busy = false → (bit p.spcr 6 && bit p.spcr 4) = false → t.io.spi.left = none ∧ t.io.spi.shift = w) ∧
        (busy = true → t.io.spi.left = p.left ∧ t.io.spi.shift = p.shift ∧ bit t.io.spi.spsr 6 = true)) ∧
      (∀ n k, p.left = some k →
        (n < k → (advance n s).io.spi = { p with left := some (k - n) }) ∧
          (k ≤ n → (advance n s).io.spi = received s.pins.miso)) ∧
      (s.cpu.run ≠ .stopped →
        (applyInput s .spiSlaveStart).io.spi =
            { p with slaveBusy := p.slaveBusy || (bit p.spcr 6 && !bit p.spcr 4 && !bit s.pins.portD 5) } ∧
          ((applyInput s (.spiClocked w)).io.spi = if p.slaveBusy && !bit s.pins.portD 5 then received w else p) ∧
          ((applyInput s (.portD w)).io.spi.spsr = p.spsr |||
            (if bit p.spcr 6 && bit p.spcr 4 && bit s.pins.portD 5 && !bit w 5 then 0x10 else 0))) ∧
      (bit s.pins.portD 5 = false → bit w 5 = true → (applyInput s (.portD w)).io.spi = { p with slaveBusy := false }) ∧
      (∃ t, writeByte s (regAddr s 0x30) w = .next t ∧
        t.io.adc = { a with adctl := w &&& 0x3F, next := if bit s.io.sys.option 7 then some 0 else none }) ∧
      (s.cpu.run ≠ .stopped →
        let u := (applyInput s (.adcResult w)).io.adc
        (bit s.io.sys.option 7 = false → u = a) ∧ (a.next = none → u = a) ∧
          (bit s.io.sys.option 7 = true →
            (a.next = some 0 → u = { a with adr1 := w, next := some 1 }) ∧
              (a.next = some 1 → u = { a with adr2 := w, next := some 2 }) ∧
              (a.next = some 2 → u = { a with adr3 := w, next := some 3 }) ∧
              (a.next = some 3 →
                u = { a with adr4 := w, adctl := a.adctl ||| 0x80, next := if bit a.adctl 5 then some 0 else none })))

/-- The SCI: a character that the enabled receiver assembles goes to the receive buffer with RDRF, NF and FE, and R8 where
M = 1; one that finds RDRF = 1 is lost and sets OR. The enabled transmitter's idle shifter takes the buffered character,
sets TDRE and is busy for the bits of the character at the bit rate, or takes a break while SBK = 1 and none is buffered; when
it is out with nothing queued and SBK = 0, or with TE = 0, TC sets, and so it does where a write of SCCR2 with the shifter empty
leaves nothing to send (R470, R472, R73). These are the model's choices (log entry 24): when the shifter takes a character; that
T8 is read then; that a character goes before a break, and a break is as long as a character; what TC does around a break and a
cleared TE; that a character in the shifter runs out when TE is cleared, and one in the buffer stays there with TDRE = 0, to be
sent once TE is set again; that an overrunning character sets neither NF nor FE. -/
def Obligations.SciMovesCharacters : Prop :=
  ∀ (s : State) (d : BitVec 9) (noise framing : Bool),
    let p := s.io.sci
    let nine := bit p.sccr1 4
    s.cpu.run ≠ .stopped →
      (let q := (applyInput s (.sciCharacter d noise framing)).io.sci
       bit p.sccr2 2 = true → bit p.sccr2 1 = false →
        (bit p.scsr 5 = false →
          q = { p with
            lineActive := true
            rxShift := d
            rx := d.setWidth 8
            scsr := p.scsr ||| 0x20 ||| (if noise then 0x04 else 0) ||| (if framing then 0x02 else 0)
            sccr1 := q.sccr1 } ∧
          bit q.sccr1 7 = (if nine then d.getLsbD 8 else bit p.sccr1 7) ∧ q.sccr1 &&& 0x7F = p.sccr1 &&& 0x7F) ∧
        (bit p.scsr 5 = true → q = { p with lineActive := true, rxShift := d, scsr := p.scsr ||| 0x08 })) ∧
      (bit p.sccr2 3 = true → p.left = none → bit p.baud 6 = false →
        let divisor : Nat := match p.baud.toNat / 16 % 4 with
          | 0 => 1
          | 1 => 3
          | 2 => 4
          | _ => 13
        let time : Nat := (if nine then 11 else 10) * (16 * divisor * 2 ^ (p.baud.toNat % 8))
        let q := (applyInput s .sciShifterReady).io.sci
        (bit p.scsr 7 = false →
            q = { p with shift := BitVec.ofBool (bit p.sccr1 6) ++ p.tx, left := some time, scsr := p.scsr ||| 0x80 }) ∧
          (bit p.scsr 7 = true → q = if bit p.sccr2 0 then { p with shift := 0, left := some time } else p)) ∧
      (∀ w, ∃ t, writeByte s (regAddr s 0x2D) w = .next t ∧
        t.io.sci =
          { p with
            sccr2 := w
            scsr := p.scsr |||
              (if p.left.isNone && (bit p.sccr2 3 && (!bit p.scsr 7 || bit p.sccr2 0)) && (!bit w 3 || bit p.scsr 7 && !bit w 0)
                then 0x40 else 0) }) ∧
      ∀ n k, p.left = some k →
        (n < k → (advance n s).io.sci = { p with left := some (k - n) }) ∧
          (k ≤ n → (advance n s).io.sci =
            { p with left := none, scsr := p.scsr ||| (if !bit p.sccr2 3 || bit p.scsr 7 && !bit p.sccr2 0 then 0x40 else 0) })

/-- Ports: outside the modes with an external bus the edge of STRA that EGA selects latches port C into PORTCL, sets STAF
and ends an interlocked STRB, and the other edge, or a level that repeats, does nothing. A write of PORTB in simple strobed mode,
and in full handshake the acknowledging access of PORTCL, makes STRB active, for two cycles or, interlocked, until that edge. STAF
is cleared by reading PIOC with STAF = 1 and then reading PORTCL, or writing it in full output handshake. PORTE reads its pins;
PORTA reads the pins of its inputs and the last value written to its outputs, DDRA7 choosing for PA7 and DDRA3 or an output
compare for PA3; PORTC does so by DDRC, outside full output handshake, where all its pins are outputs while STRA is active;
PORTD by DDRD while the SCI's receiver and the SPI are off, in six bits (R41, R43 to R46, R48, R49, R51, R65, R476, R511). The
model's choices: PORTA's reads, with compares on its pins too (log entry 20); that an enabled transmitter makes PD1 an output, and
what PORTC reads where its pins are the bus (log entry 22, PRESUMED); which access acknowledges and how STRB moves, the two
cycles of the pulse in simple strobed mode among it, and that STRA's active level is the one opposite to the edge that EGA
selects (log entry 23, PRESUMED in part); that the latch PORTC, and not PORTCL, is on the output pins, that PORTCL latches the
level of an output pin as of an input, and that a store to PORTCL writes the latch in every mode (log entry 39, PRESUMED); either reading of DDRC while STRA is not active (log entry 42);
that CWOM changes no level (log entry 45). -/
def Obligations.PortsAndHandshake : Prop :=
  ∀ (s : State) (w : Byte) (level : Bool) (n : Nat),
    let p := s.io.ports
    let ports (x : State) (q : Ports) : State := { x with io := { x.io with ports := q } }
    let hnds := bit p.pioc 4
    let interlocked := hnds && !bit p.pioc 2
    let output := hnds && bit p.pioc 3
    let mix (outputs : Byte) : Byte := (s.pins.portC &&& ~~~outputs) ||| (p.portc &&& outputs)
    let cleared (q : Ports) : Ports := if p.stafArmed then { q with pioc := p.pioc &&& 0x7F, stafArmed := false } else q
    let strobed (q : Ports) : Ports := { q with strbActive := true, strbPulse := if interlocked then 0 else 2 }
    (s.mda = false → s.cpu.run ≠ .stopped →
        let t := applyInput s (.straPin level)
        (s.pins.stra ≠ level → level = bit p.pioc 1 →
          t.io.ports =
              { p with
                pioc := p.pioc ||| 0x80
                portcl := t.io.ports.portcl
                strbActive := if interlocked then false else p.strbActive } ∧
            (output = false → t.io.ports.portcl = mix p.ddrc) ∧
            (output = true → t.io.ports.portcl = mix p.ddrc ∨ t.io.ports.portcl = mix (~~~p.ddrc))) ∧
        (s.pins.stra = level ∨ level ≠ bit p.pioc 1 → t.io = s.io)) ∧
      (s.mda = false → hnds = false →
        writeByte s (regAddr s 0x04) w = .next (ports s { p with portb := w, strbActive := true, strbPulse := 2 })) ∧
      ((s.mda || hnds) = true → writeByte s (regAddr s 0x04) w = .next (ports s { p with portb := w })) ∧
      ((p.strbPulse = 0 → (advance n s).io.ports = p) ∧
        (n < p.strbPulse → (advance n s).io.ports = { p with strbPulse := p.strbPulse - n }) ∧
        (p.strbPulse ≠ 0 → p.strbPulse ≤ n → (advance n s).io.ports = { p with strbPulse := 0, strbActive := false })) ∧
      readByte s (regAddr s 0x02) = (p.pioc, if bit p.pioc 7 then ports s { p with stafArmed := true } else s) ∧
      readByte s (regAddr s 0x05) =
        (p.portcl,
          if output then s
          else if hnds && !s.mda then ports s (strobed (cleared p))
          else ports s (cleared p)) ∧
      writeByte s (regAddr s 0x05) w =
        .next (ports s
          (let q := { p with portcl := w }
           if output then if s.mda then cleared q else strobed (cleared q) else q)) ∧
      writeByte s (regAddr s 0x02) w = .next (ports s { p with pioc := (p.pioc &&& 0x80) ||| (w &&& 0x7F) }) ∧
      (output = false → bit p.pioc 7 = true →
        let one := readByte s (regAddr s 0x02)
        let two := readByte one.2 (regAddr s 0x05)
        one.1 = p.pioc ∧ two.1 = p.portcl ∧ two.2.io.ports.pioc = p.pioc &&& 0x7F) ∧
      (output = true → bit p.pioc 7 = true →
        ∃ t, writeByte (readByte s (regAddr s 0x02)).2 (regAddr s 0x05) w = .next t ∧ t.io.ports.pioc = p.pioc &&& 0x7F) ∧
      (s.mda = false →
        (output = false → readByte s (regAddr s 0x03) = (mix p.ddrc, s)) ∧
          (output = true → s.pins.stra ≠ bit p.pioc 1 → readByte s (regAddr s 0x03) = (p.portc, s)) ∧
          (output = true → s.pins.stra = bit p.pioc 1 →
            readByte s (regAddr s 0x03) = (mix p.ddrc, s) ∨ readByte s (regAddr s 0x03) = (mix (~~~p.ddrc), s))) ∧
      (s.mda = true →
        ∃ v, readByte s (regAddr s 0x03) = (v, { s with draws := s.draws + 1 }) ∧ v &&& p.ddrc = p.portc &&& p.ddrc) ∧
      readByte s (regAddr s 0x04) = (p.portb, s) ∧ readByte s (regAddr s 0x0A) = (s.pins.portE, s) ∧
      (let t := s.io.timer
       let pa3 := bit t.pactl 3 || bit t.oc1m 3 || (!bit t.pactl 2 && (bit t.tctl1 1 || bit t.tctl1 0))
       ∃ v, readByte s (regAddr s 0x00) = (v, s) ∧ v &&& 0x70 = p.porta &&& 0x70 ∧ v &&& 0x07 = s.pins.portA &&& 0x07 ∧
        bit v 7 = (if bit t.pactl 7 then bit p.porta 7 else bit s.pins.portA 7) ∧
        bit v 3 = if pa3 then bit p.porta 3 else bit s.pins.portA 3) ∧
      (bit s.io.sci.sccr2 2 = false → bit s.io.spi.spcr 6 = false →
        let out := p.ddrd ||| (if bit s.io.sci.sccr2 3 then 0x02 else 0)
        readByte s (regAddr s 0x08) = (((s.pins.portD &&& ~~~out) ||| (p.portd &&& out)) &&& 0x3F, s))
end

