-- ==== Sys2Proof/Laws/State.lean ====
section
/-! SUPPORT. One lemma for each field of the state after each named update, so that no proof unfolds a record update. -/

namespace Sys2Proof.Machine

/-! After `setA`. -/

@[simp] theorem State.setA_a (s : State) (v : Byte) : (s.setA v).cpu.a = v := rfl
@[simp] theorem State.setA_b (s : State) (v : Byte) : (s.setA v).cpu.b = s.cpu.b := rfl
@[simp] theorem State.setA_ix (s : State) (v : Byte) : (s.setA v).cpu.ix = s.cpu.ix := rfl
@[simp] theorem State.setA_iy (s : State) (v : Byte) : (s.setA v).cpu.iy = s.cpu.iy := rfl
@[simp] theorem State.setA_sp (s : State) (v : Byte) : (s.setA v).cpu.sp = s.cpu.sp := rfl
@[simp] theorem State.setA_pc (s : State) (v : Byte) : (s.setA v).cpu.pc = s.cpu.pc := rfl
@[simp] theorem State.setA_ccr (s : State) (v : Byte) : (s.setA v).cpu.ccr = s.cpu.ccr := rfl
@[simp] theorem State.setA_run (s : State) (v : Byte) : (s.setA v).cpu.run = s.cpu.run := rfl
@[simp] theorem State.setA_iCleared (s : State) (v : Byte) : (s.setA v).cpu.iCleared = s.cpu.iCleared := rfl
@[simp] theorem State.setA_mem (s : State) (v : Byte) : (s.setA v).mem = s.mem := rfl
@[simp] theorem State.setA_io (s : State) (v : Byte) : (s.setA v).io = s.io := rfl
@[simp] theorem State.setA_pins (s : State) (v : Byte) : (s.setA v).pins = s.pins := rfl
@[simp] theorem State.setA_params (s : State) (v : Byte) : (s.setA v).params = s.params := rfl
@[simp] theorem State.setA_inputs (s : State) (v : Byte) : (s.setA v).inputs = s.inputs := rfl
@[simp] theorem State.setA_draws (s : State) (v : Byte) : (s.setA v).draws = s.draws := rfl

/-! After `setB`. -/

@[simp] theorem State.setB_a (s : State) (v : Byte) : (s.setB v).cpu.a = s.cpu.a := rfl
@[simp] theorem State.setB_b (s : State) (v : Byte) : (s.setB v).cpu.b = v := rfl
@[simp] theorem State.setB_ix (s : State) (v : Byte) : (s.setB v).cpu.ix = s.cpu.ix := rfl
@[simp] theorem State.setB_iy (s : State) (v : Byte) : (s.setB v).cpu.iy = s.cpu.iy := rfl
@[simp] theorem State.setB_sp (s : State) (v : Byte) : (s.setB v).cpu.sp = s.cpu.sp := rfl
@[simp] theorem State.setB_pc (s : State) (v : Byte) : (s.setB v).cpu.pc = s.cpu.pc := rfl
@[simp] theorem State.setB_ccr (s : State) (v : Byte) : (s.setB v).cpu.ccr = s.cpu.ccr := rfl
@[simp] theorem State.setB_run (s : State) (v : Byte) : (s.setB v).cpu.run = s.cpu.run := rfl
@[simp] theorem State.setB_iCleared (s : State) (v : Byte) : (s.setB v).cpu.iCleared = s.cpu.iCleared := rfl
@[simp] theorem State.setB_mem (s : State) (v : Byte) : (s.setB v).mem = s.mem := rfl
@[simp] theorem State.setB_io (s : State) (v : Byte) : (s.setB v).io = s.io := rfl
@[simp] theorem State.setB_pins (s : State) (v : Byte) : (s.setB v).pins = s.pins := rfl
@[simp] theorem State.setB_params (s : State) (v : Byte) : (s.setB v).params = s.params := rfl
@[simp] theorem State.setB_inputs (s : State) (v : Byte) : (s.setB v).inputs = s.inputs := rfl
@[simp] theorem State.setB_draws (s : State) (v : Byte) : (s.setB v).draws = s.draws := rfl

/-! After `setIx`. -/

@[simp] theorem State.setIx_a (s : State) (v : Word) : (s.setIx v).cpu.a = s.cpu.a := rfl
@[simp] theorem State.setIx_b (s : State) (v : Word) : (s.setIx v).cpu.b = s.cpu.b := rfl
@[simp] theorem State.setIx_ix (s : State) (v : Word) : (s.setIx v).cpu.ix = v := rfl
@[simp] theorem State.setIx_iy (s : State) (v : Word) : (s.setIx v).cpu.iy = s.cpu.iy := rfl
@[simp] theorem State.setIx_sp (s : State) (v : Word) : (s.setIx v).cpu.sp = s.cpu.sp := rfl
@[simp] theorem State.setIx_pc (s : State) (v : Word) : (s.setIx v).cpu.pc = s.cpu.pc := rfl
@[simp] theorem State.setIx_ccr (s : State) (v : Word) : (s.setIx v).cpu.ccr = s.cpu.ccr := rfl
@[simp] theorem State.setIx_run (s : State) (v : Word) : (s.setIx v).cpu.run = s.cpu.run := rfl
@[simp] theorem State.setIx_iCleared (s : State) (v : Word) : (s.setIx v).cpu.iCleared = s.cpu.iCleared := rfl
@[simp] theorem State.setIx_mem (s : State) (v : Word) : (s.setIx v).mem = s.mem := rfl
@[simp] theorem State.setIx_io (s : State) (v : Word) : (s.setIx v).io = s.io := rfl
@[simp] theorem State.setIx_pins (s : State) (v : Word) : (s.setIx v).pins = s.pins := rfl
@[simp] theorem State.setIx_params (s : State) (v : Word) : (s.setIx v).params = s.params := rfl
@[simp] theorem State.setIx_inputs (s : State) (v : Word) : (s.setIx v).inputs = s.inputs := rfl
@[simp] theorem State.setIx_draws (s : State) (v : Word) : (s.setIx v).draws = s.draws := rfl

/-! After `setIy`. -/

@[simp] theorem State.setIy_a (s : State) (v : Word) : (s.setIy v).cpu.a = s.cpu.a := rfl
@[simp] theorem State.setIy_b (s : State) (v : Word) : (s.setIy v).cpu.b = s.cpu.b := rfl
@[simp] theorem State.setIy_ix (s : State) (v : Word) : (s.setIy v).cpu.ix = s.cpu.ix := rfl
@[simp] theorem State.setIy_iy (s : State) (v : Word) : (s.setIy v).cpu.iy = v := rfl
@[simp] theorem State.setIy_sp (s : State) (v : Word) : (s.setIy v).cpu.sp = s.cpu.sp := rfl
@[simp] theorem State.setIy_pc (s : State) (v : Word) : (s.setIy v).cpu.pc = s.cpu.pc := rfl
@[simp] theorem State.setIy_ccr (s : State) (v : Word) : (s.setIy v).cpu.ccr = s.cpu.ccr := rfl
@[simp] theorem State.setIy_run (s : State) (v : Word) : (s.setIy v).cpu.run = s.cpu.run := rfl
@[simp] theorem State.setIy_iCleared (s : State) (v : Word) : (s.setIy v).cpu.iCleared = s.cpu.iCleared := rfl
@[simp] theorem State.setIy_mem (s : State) (v : Word) : (s.setIy v).mem = s.mem := rfl
@[simp] theorem State.setIy_io (s : State) (v : Word) : (s.setIy v).io = s.io := rfl
@[simp] theorem State.setIy_pins (s : State) (v : Word) : (s.setIy v).pins = s.pins := rfl
@[simp] theorem State.setIy_params (s : State) (v : Word) : (s.setIy v).params = s.params := rfl
@[simp] theorem State.setIy_inputs (s : State) (v : Word) : (s.setIy v).inputs = s.inputs := rfl
@[simp] theorem State.setIy_draws (s : State) (v : Word) : (s.setIy v).draws = s.draws := rfl

/-! After `setSp`. -/

@[simp] theorem State.setSp_a (s : State) (v : Word) : (s.setSp v).cpu.a = s.cpu.a := rfl
@[simp] theorem State.setSp_b (s : State) (v : Word) : (s.setSp v).cpu.b = s.cpu.b := rfl
@[simp] theorem State.setSp_ix (s : State) (v : Word) : (s.setSp v).cpu.ix = s.cpu.ix := rfl
@[simp] theorem State.setSp_iy (s : State) (v : Word) : (s.setSp v).cpu.iy = s.cpu.iy := rfl
@[simp] theorem State.setSp_sp (s : State) (v : Word) : (s.setSp v).cpu.sp = v := rfl
@[simp] theorem State.setSp_pc (s : State) (v : Word) : (s.setSp v).cpu.pc = s.cpu.pc := rfl
@[simp] theorem State.setSp_ccr (s : State) (v : Word) : (s.setSp v).cpu.ccr = s.cpu.ccr := rfl
@[simp] theorem State.setSp_run (s : State) (v : Word) : (s.setSp v).cpu.run = s.cpu.run := rfl
@[simp] theorem State.setSp_iCleared (s : State) (v : Word) : (s.setSp v).cpu.iCleared = s.cpu.iCleared := rfl
@[simp] theorem State.setSp_mem (s : State) (v : Word) : (s.setSp v).mem = s.mem := rfl
@[simp] theorem State.setSp_io (s : State) (v : Word) : (s.setSp v).io = s.io := rfl
@[simp] theorem State.setSp_pins (s : State) (v : Word) : (s.setSp v).pins = s.pins := rfl
@[simp] theorem State.setSp_params (s : State) (v : Word) : (s.setSp v).params = s.params := rfl
@[simp] theorem State.setSp_inputs (s : State) (v : Word) : (s.setSp v).inputs = s.inputs := rfl
@[simp] theorem State.setSp_draws (s : State) (v : Word) : (s.setSp v).draws = s.draws := rfl

/-! After `setPc`. -/

@[simp] theorem State.setPc_a (s : State) (v : Word) : (s.setPc v).cpu.a = s.cpu.a := rfl
@[simp] theorem State.setPc_b (s : State) (v : Word) : (s.setPc v).cpu.b = s.cpu.b := rfl
@[simp] theorem State.setPc_ix (s : State) (v : Word) : (s.setPc v).cpu.ix = s.cpu.ix := rfl
@[simp] theorem State.setPc_iy (s : State) (v : Word) : (s.setPc v).cpu.iy = s.cpu.iy := rfl
@[simp] theorem State.setPc_sp (s : State) (v : Word) : (s.setPc v).cpu.sp = s.cpu.sp := rfl
@[simp] theorem State.setPc_pc (s : State) (v : Word) : (s.setPc v).cpu.pc = v := rfl
@[simp] theorem State.setPc_ccr (s : State) (v : Word) : (s.setPc v).cpu.ccr = s.cpu.ccr := rfl
@[simp] theorem State.setPc_run (s : State) (v : Word) : (s.setPc v).cpu.run = s.cpu.run := rfl
@[simp] theorem State.setPc_iCleared (s : State) (v : Word) : (s.setPc v).cpu.iCleared = s.cpu.iCleared := rfl
@[simp] theorem State.setPc_mem (s : State) (v : Word) : (s.setPc v).mem = s.mem := rfl
@[simp] theorem State.setPc_io (s : State) (v : Word) : (s.setPc v).io = s.io := rfl
@[simp] theorem State.setPc_pins (s : State) (v : Word) : (s.setPc v).pins = s.pins := rfl
@[simp] theorem State.setPc_params (s : State) (v : Word) : (s.setPc v).params = s.params := rfl
@[simp] theorem State.setPc_inputs (s : State) (v : Word) : (s.setPc v).inputs = s.inputs := rfl
@[simp] theorem State.setPc_draws (s : State) (v : Word) : (s.setPc v).draws = s.draws := rfl

/-! After `setCcr`. -/

@[simp] theorem State.setCcr_a (s : State) (v : Ccr) : (s.setCcr v).cpu.a = s.cpu.a := rfl
@[simp] theorem State.setCcr_b (s : State) (v : Ccr) : (s.setCcr v).cpu.b = s.cpu.b := rfl
@[simp] theorem State.setCcr_ix (s : State) (v : Ccr) : (s.setCcr v).cpu.ix = s.cpu.ix := rfl
@[simp] theorem State.setCcr_iy (s : State) (v : Ccr) : (s.setCcr v).cpu.iy = s.cpu.iy := rfl
@[simp] theorem State.setCcr_sp (s : State) (v : Ccr) : (s.setCcr v).cpu.sp = s.cpu.sp := rfl
@[simp] theorem State.setCcr_pc (s : State) (v : Ccr) : (s.setCcr v).cpu.pc = s.cpu.pc := rfl
@[simp] theorem State.setCcr_ccr (s : State) (v : Ccr) : (s.setCcr v).cpu.ccr = v := rfl
@[simp] theorem State.setCcr_run (s : State) (v : Ccr) : (s.setCcr v).cpu.run = s.cpu.run := rfl
@[simp] theorem State.setCcr_iCleared (s : State) (v : Ccr) : (s.setCcr v).cpu.iCleared = s.cpu.iCleared := rfl
@[simp] theorem State.setCcr_mem (s : State) (v : Ccr) : (s.setCcr v).mem = s.mem := rfl
@[simp] theorem State.setCcr_io (s : State) (v : Ccr) : (s.setCcr v).io = s.io := rfl
@[simp] theorem State.setCcr_pins (s : State) (v : Ccr) : (s.setCcr v).pins = s.pins := rfl
@[simp] theorem State.setCcr_params (s : State) (v : Ccr) : (s.setCcr v).params = s.params := rfl
@[simp] theorem State.setCcr_inputs (s : State) (v : Ccr) : (s.setCcr v).inputs = s.inputs := rfl
@[simp] theorem State.setCcr_draws (s : State) (v : Ccr) : (s.setCcr v).draws = s.draws := rfl

/-! After `setRun`. -/

@[simp] theorem State.setRun_a (s : State) (v : RunState) : (s.setRun v).cpu.a = s.cpu.a := rfl
@[simp] theorem State.setRun_b (s : State) (v : RunState) : (s.setRun v).cpu.b = s.cpu.b := rfl
@[simp] theorem State.setRun_ix (s : State) (v : RunState) : (s.setRun v).cpu.ix = s.cpu.ix := rfl
@[simp] theorem State.setRun_iy (s : State) (v : RunState) : (s.setRun v).cpu.iy = s.cpu.iy := rfl
@[simp] theorem State.setRun_sp (s : State) (v : RunState) : (s.setRun v).cpu.sp = s.cpu.sp := rfl
@[simp] theorem State.setRun_pc (s : State) (v : RunState) : (s.setRun v).cpu.pc = s.cpu.pc := rfl
@[simp] theorem State.setRun_ccr (s : State) (v : RunState) : (s.setRun v).cpu.ccr = s.cpu.ccr := rfl
@[simp] theorem State.setRun_run (s : State) (v : RunState) : (s.setRun v).cpu.run = v := rfl
@[simp] theorem State.setRun_iCleared (s : State) (v : RunState) : (s.setRun v).cpu.iCleared = s.cpu.iCleared := rfl
@[simp] theorem State.setRun_mem (s : State) (v : RunState) : (s.setRun v).mem = s.mem := rfl
@[simp] theorem State.setRun_io (s : State) (v : RunState) : (s.setRun v).io = s.io := rfl
@[simp] theorem State.setRun_pins (s : State) (v : RunState) : (s.setRun v).pins = s.pins := rfl
@[simp] theorem State.setRun_params (s : State) (v : RunState) : (s.setRun v).params = s.params := rfl
@[simp] theorem State.setRun_inputs (s : State) (v : RunState) : (s.setRun v).inputs = s.inputs := rfl
@[simp] theorem State.setRun_draws (s : State) (v : RunState) : (s.setRun v).draws = s.draws := rfl

/-! After `setICleared`. -/

@[simp] theorem State.setICleared_a (s : State) (v : Bool) : (s.setICleared v).cpu.a = s.cpu.a := rfl
@[simp] theorem State.setICleared_b (s : State) (v : Bool) : (s.setICleared v).cpu.b = s.cpu.b := rfl
@[simp] theorem State.setICleared_ix (s : State) (v : Bool) : (s.setICleared v).cpu.ix = s.cpu.ix := rfl
@[simp] theorem State.setICleared_iy (s : State) (v : Bool) : (s.setICleared v).cpu.iy = s.cpu.iy := rfl
@[simp] theorem State.setICleared_sp (s : State) (v : Bool) : (s.setICleared v).cpu.sp = s.cpu.sp := rfl
@[simp] theorem State.setICleared_pc (s : State) (v : Bool) : (s.setICleared v).cpu.pc = s.cpu.pc := rfl
@[simp] theorem State.setICleared_ccr (s : State) (v : Bool) : (s.setICleared v).cpu.ccr = s.cpu.ccr := rfl
@[simp] theorem State.setICleared_run (s : State) (v : Bool) : (s.setICleared v).cpu.run = s.cpu.run := rfl
@[simp] theorem State.setICleared_iCleared (s : State) (v : Bool) : (s.setICleared v).cpu.iCleared = v := rfl
@[simp] theorem State.setICleared_mem (s : State) (v : Bool) : (s.setICleared v).mem = s.mem := rfl
@[simp] theorem State.setICleared_io (s : State) (v : Bool) : (s.setICleared v).io = s.io := rfl
@[simp] theorem State.setICleared_pins (s : State) (v : Bool) : (s.setICleared v).pins = s.pins := rfl
@[simp] theorem State.setICleared_params (s : State) (v : Bool) : (s.setICleared v).params = s.params := rfl
@[simp] theorem State.setICleared_inputs (s : State) (v : Bool) : (s.setICleared v).inputs = s.inputs := rfl
@[simp] theorem State.setICleared_draws (s : State) (v : Bool) : (s.setICleared v).draws = s.draws := rfl

/-! After `setPorts`. -/

@[simp] theorem State.setPorts_ports (s : State) (v : Ports) : (s.setPorts v).io.ports = v := rfl
@[simp] theorem State.setPorts_timer (s : State) (v : Ports) : (s.setPorts v).io.timer = s.io.timer := rfl
@[simp] theorem State.setPorts_spi (s : State) (v : Ports) : (s.setPorts v).io.spi = s.io.spi := rfl
@[simp] theorem State.setPorts_sci (s : State) (v : Ports) : (s.setPorts v).io.sci = s.io.sci := rfl
@[simp] theorem State.setPorts_adc (s : State) (v : Ports) : (s.setPorts v).io.adc = s.io.adc := rfl
@[simp] theorem State.setPorts_sys (s : State) (v : Ports) : (s.setPorts v).io.sys = s.io.sys := rfl
@[simp] theorem State.setPorts_cpu (s : State) (v : Ports) : (s.setPorts v).cpu = s.cpu := rfl
@[simp] theorem State.setPorts_mem (s : State) (v : Ports) : (s.setPorts v).mem = s.mem := rfl
@[simp] theorem State.setPorts_pins (s : State) (v : Ports) : (s.setPorts v).pins = s.pins := rfl
@[simp] theorem State.setPorts_params (s : State) (v : Ports) : (s.setPorts v).params = s.params := rfl
@[simp] theorem State.setPorts_inputs (s : State) (v : Ports) : (s.setPorts v).inputs = s.inputs := rfl
@[simp] theorem State.setPorts_draws (s : State) (v : Ports) : (s.setPorts v).draws = s.draws := rfl

/-! After `setTimer`. -/

@[simp] theorem State.setTimer_ports (s : State) (v : Timer) : (s.setTimer v).io.ports = s.io.ports := rfl
@[simp] theorem State.setTimer_timer (s : State) (v : Timer) : (s.setTimer v).io.timer = v := rfl
@[simp] theorem State.setTimer_spi (s : State) (v : Timer) : (s.setTimer v).io.spi = s.io.spi := rfl
@[simp] theorem State.setTimer_sci (s : State) (v : Timer) : (s.setTimer v).io.sci = s.io.sci := rfl
@[simp] theorem State.setTimer_adc (s : State) (v : Timer) : (s.setTimer v).io.adc = s.io.adc := rfl
@[simp] theorem State.setTimer_sys (s : State) (v : Timer) : (s.setTimer v).io.sys = s.io.sys := rfl
@[simp] theorem State.setTimer_cpu (s : State) (v : Timer) : (s.setTimer v).cpu = s.cpu := rfl
@[simp] theorem State.setTimer_mem (s : State) (v : Timer) : (s.setTimer v).mem = s.mem := rfl
@[simp] theorem State.setTimer_pins (s : State) (v : Timer) : (s.setTimer v).pins = s.pins := rfl
@[simp] theorem State.setTimer_params (s : State) (v : Timer) : (s.setTimer v).params = s.params := rfl
@[simp] theorem State.setTimer_inputs (s : State) (v : Timer) : (s.setTimer v).inputs = s.inputs := rfl
@[simp] theorem State.setTimer_draws (s : State) (v : Timer) : (s.setTimer v).draws = s.draws := rfl

/-! After `setSpi`. -/

@[simp] theorem State.setSpi_ports (s : State) (v : Spi) : (s.setSpi v).io.ports = s.io.ports := rfl
@[simp] theorem State.setSpi_timer (s : State) (v : Spi) : (s.setSpi v).io.timer = s.io.timer := rfl
@[simp] theorem State.setSpi_spi (s : State) (v : Spi) : (s.setSpi v).io.spi = v := rfl
@[simp] theorem State.setSpi_sci (s : State) (v : Spi) : (s.setSpi v).io.sci = s.io.sci := rfl
@[simp] theorem State.setSpi_adc (s : State) (v : Spi) : (s.setSpi v).io.adc = s.io.adc := rfl
@[simp] theorem State.setSpi_sys (s : State) (v : Spi) : (s.setSpi v).io.sys = s.io.sys := rfl
@[simp] theorem State.setSpi_cpu (s : State) (v : Spi) : (s.setSpi v).cpu = s.cpu := rfl
@[simp] theorem State.setSpi_mem (s : State) (v : Spi) : (s.setSpi v).mem = s.mem := rfl
@[simp] theorem State.setSpi_pins (s : State) (v : Spi) : (s.setSpi v).pins = s.pins := rfl
@[simp] theorem State.setSpi_params (s : State) (v : Spi) : (s.setSpi v).params = s.params := rfl
@[simp] theorem State.setSpi_inputs (s : State) (v : Spi) : (s.setSpi v).inputs = s.inputs := rfl
@[simp] theorem State.setSpi_draws (s : State) (v : Spi) : (s.setSpi v).draws = s.draws := rfl

/-! After `setSci`. -/

@[simp] theorem State.setSci_ports (s : State) (v : Sci) : (s.setSci v).io.ports = s.io.ports := rfl
@[simp] theorem State.setSci_timer (s : State) (v : Sci) : (s.setSci v).io.timer = s.io.timer := rfl
@[simp] theorem State.setSci_spi (s : State) (v : Sci) : (s.setSci v).io.spi = s.io.spi := rfl
@[simp] theorem State.setSci_sci (s : State) (v : Sci) : (s.setSci v).io.sci = v := rfl
@[simp] theorem State.setSci_adc (s : State) (v : Sci) : (s.setSci v).io.adc = s.io.adc := rfl
@[simp] theorem State.setSci_sys (s : State) (v : Sci) : (s.setSci v).io.sys = s.io.sys := rfl
@[simp] theorem State.setSci_cpu (s : State) (v : Sci) : (s.setSci v).cpu = s.cpu := rfl
@[simp] theorem State.setSci_mem (s : State) (v : Sci) : (s.setSci v).mem = s.mem := rfl
@[simp] theorem State.setSci_pins (s : State) (v : Sci) : (s.setSci v).pins = s.pins := rfl
@[simp] theorem State.setSci_params (s : State) (v : Sci) : (s.setSci v).params = s.params := rfl
@[simp] theorem State.setSci_inputs (s : State) (v : Sci) : (s.setSci v).inputs = s.inputs := rfl
@[simp] theorem State.setSci_draws (s : State) (v : Sci) : (s.setSci v).draws = s.draws := rfl

/-! After `setAdc`. -/

@[simp] theorem State.setAdc_ports (s : State) (v : Adc) : (s.setAdc v).io.ports = s.io.ports := rfl
@[simp] theorem State.setAdc_timer (s : State) (v : Adc) : (s.setAdc v).io.timer = s.io.timer := rfl
@[simp] theorem State.setAdc_spi (s : State) (v : Adc) : (s.setAdc v).io.spi = s.io.spi := rfl
@[simp] theorem State.setAdc_sci (s : State) (v : Adc) : (s.setAdc v).io.sci = s.io.sci := rfl
@[simp] theorem State.setAdc_adc (s : State) (v : Adc) : (s.setAdc v).io.adc = v := rfl
@[simp] theorem State.setAdc_sys (s : State) (v : Adc) : (s.setAdc v).io.sys = s.io.sys := rfl
@[simp] theorem State.setAdc_cpu (s : State) (v : Adc) : (s.setAdc v).cpu = s.cpu := rfl
@[simp] theorem State.setAdc_mem (s : State) (v : Adc) : (s.setAdc v).mem = s.mem := rfl
@[simp] theorem State.setAdc_pins (s : State) (v : Adc) : (s.setAdc v).pins = s.pins := rfl
@[simp] theorem State.setAdc_params (s : State) (v : Adc) : (s.setAdc v).params = s.params := rfl
@[simp] theorem State.setAdc_inputs (s : State) (v : Adc) : (s.setAdc v).inputs = s.inputs := rfl
@[simp] theorem State.setAdc_draws (s : State) (v : Adc) : (s.setAdc v).draws = s.draws := rfl

/-! After `setSys`. -/

@[simp] theorem State.setSys_ports (s : State) (v : Sys) : (s.setSys v).io.ports = s.io.ports := rfl
@[simp] theorem State.setSys_timer (s : State) (v : Sys) : (s.setSys v).io.timer = s.io.timer := rfl
@[simp] theorem State.setSys_spi (s : State) (v : Sys) : (s.setSys v).io.spi = s.io.spi := rfl
@[simp] theorem State.setSys_sci (s : State) (v : Sys) : (s.setSys v).io.sci = s.io.sci := rfl
@[simp] theorem State.setSys_adc (s : State) (v : Sys) : (s.setSys v).io.adc = s.io.adc := rfl
@[simp] theorem State.setSys_sys (s : State) (v : Sys) : (s.setSys v).io.sys = v := rfl
@[simp] theorem State.setSys_cpu (s : State) (v : Sys) : (s.setSys v).cpu = s.cpu := rfl
@[simp] theorem State.setSys_mem (s : State) (v : Sys) : (s.setSys v).mem = s.mem := rfl
@[simp] theorem State.setSys_pins (s : State) (v : Sys) : (s.setSys v).pins = s.pins := rfl
@[simp] theorem State.setSys_params (s : State) (v : Sys) : (s.setSys v).params = s.params := rfl
@[simp] theorem State.setSys_inputs (s : State) (v : Sys) : (s.setSys v).inputs = s.inputs := rfl
@[simp] theorem State.setSys_draws (s : State) (v : Sys) : (s.setSys v).draws = s.draws := rfl

/-! After `setPins`. -/

@[simp] theorem State.setPins_cpu (s : State) (v : Pins) : (s.setPins v).cpu = s.cpu := rfl
@[simp] theorem State.setPins_mem (s : State) (v : Pins) : (s.setPins v).mem = s.mem := rfl
@[simp] theorem State.setPins_io (s : State) (v : Pins) : (s.setPins v).io = s.io := rfl
@[simp] theorem State.setPins_pins (s : State) (v : Pins) : (s.setPins v).pins = v := rfl
@[simp] theorem State.setPins_params (s : State) (v : Pins) : (s.setPins v).params = s.params := rfl
@[simp] theorem State.setPins_inputs (s : State) (v : Pins) : (s.setPins v).inputs = s.inputs := rfl
@[simp] theorem State.setPins_draws (s : State) (v : Pins) : (s.setPins v).draws = s.draws := rfl

/-! After `setMem`. -/

@[simp] theorem State.setMem_cpu (s : State) (v : Mem) : (s.setMem v).cpu = s.cpu := rfl
@[simp] theorem State.setMem_mem (s : State) (v : Mem) : (s.setMem v).mem = v := rfl
@[simp] theorem State.setMem_io (s : State) (v : Mem) : (s.setMem v).io = s.io := rfl
@[simp] theorem State.setMem_pins (s : State) (v : Mem) : (s.setMem v).pins = s.pins := rfl
@[simp] theorem State.setMem_params (s : State) (v : Mem) : (s.setMem v).params = s.params := rfl
@[simp] theorem State.setMem_inputs (s : State) (v : Mem) : (s.setMem v).inputs = s.inputs := rfl
@[simp] theorem State.setMem_draws (s : State) (v : Mem) : (s.setMem v).draws = s.draws := rfl

/-! After `drawn`. -/

@[simp] theorem State.drawn_cpu (s : State) (v : Nat) : (s.drawn v).cpu = s.cpu := rfl
@[simp] theorem State.drawn_mem (s : State) (v : Nat) : (s.drawn v).mem = s.mem := rfl
@[simp] theorem State.drawn_io (s : State) (v : Nat) : (s.drawn v).io = s.io := rfl
@[simp] theorem State.drawn_pins (s : State) (v : Nat) : (s.drawn v).pins = s.pins := rfl
@[simp] theorem State.drawn_params (s : State) (v : Nat) : (s.drawn v).params = s.params := rfl
@[simp] theorem State.drawn_inputs (s : State) (v : Nat) : (s.drawn v).inputs = s.inputs := rfl
@[simp] theorem State.drawn_draws (s : State) (v : Nat) : (s.drawn v).draws = s.draws + v := rfl

/-! Both accumulators at once, and the accumulator an instruction names. -/

@[simp] theorem State.setD_a (s : State) (v : Word) : (s.setD v).cpu.a = hi v := rfl
@[simp] theorem State.setD_b (s : State) (v : Word) : (s.setD v).cpu.b = lo v := rfl
@[simp] theorem State.setD_ix (s : State) (v : Word) : (s.setD v).cpu.ix = s.cpu.ix := rfl
@[simp] theorem State.setD_iy (s : State) (v : Word) : (s.setD v).cpu.iy = s.cpu.iy := rfl
@[simp] theorem State.setD_sp (s : State) (v : Word) : (s.setD v).cpu.sp = s.cpu.sp := rfl
@[simp] theorem State.setD_pc (s : State) (v : Word) : (s.setD v).cpu.pc = s.cpu.pc := rfl
@[simp] theorem State.setD_ccr (s : State) (v : Word) : (s.setD v).cpu.ccr = s.cpu.ccr := rfl
@[simp] theorem State.setD_run (s : State) (v : Word) : (s.setD v).cpu.run = s.cpu.run := rfl
@[simp] theorem State.setD_iCleared (s : State) (v : Word) : (s.setD v).cpu.iCleared = s.cpu.iCleared := rfl
@[simp] theorem State.setD_mem (s : State) (v : Word) : (s.setD v).mem = s.mem := rfl
@[simp] theorem State.setD_io (s : State) (v : Word) : (s.setD v).io = s.io := rfl
@[simp] theorem State.setD_pins (s : State) (v : Word) : (s.setD v).pins = s.pins := rfl
@[simp] theorem State.setD_params (s : State) (v : Word) : (s.setD v).params = s.params := rfl
@[simp] theorem State.setD_inputs (s : State) (v : Word) : (s.setD v).inputs = s.inputs := rfl
@[simp] theorem State.setD_draws (s : State) (v : Word) : (s.setD v).draws = s.draws := rfl

@[simp] theorem State.acc_a (s : State) : s.acc .a = s.cpu.a := rfl
@[simp] theorem State.acc_b (s : State) : s.acc .b = s.cpu.b := rfl
@[simp] theorem State.setAcc_a (s : State) (v : Byte) : s.setAcc .a v = s.setA v := rfl
@[simp] theorem State.setAcc_b (s : State) (v : Byte) : s.setAcc .b v = s.setB v := rfl

/-! A reset that becomes due touches the hidden state of the system registers alone. -/

@[simp] theorem State.raiseReset_cpu (s : State) (k : ResetKind) : (s.raiseReset k).cpu = s.cpu := rfl
@[simp] theorem State.raiseReset_mem (s : State) (k : ResetKind) : (s.raiseReset k).mem = s.mem := rfl
@[simp] theorem State.raiseReset_pins (s : State) (k : ResetKind) : (s.raiseReset k).pins = s.pins := rfl
@[simp] theorem State.raiseReset_params (s : State) (k : ResetKind) : (s.raiseReset k).params = s.params := rfl
@[simp] theorem State.raiseReset_inputs (s : State) (k : ResetKind) : (s.raiseReset k).inputs = s.inputs := rfl
@[simp] theorem State.raiseReset_draws (s : State) (k : ResetKind) : (s.raiseReset k).draws = s.draws := rfl
@[simp] theorem State.raiseReset_ports (s : State) (k : ResetKind) : (s.raiseReset k).io.ports = s.io.ports := rfl
@[simp] theorem State.raiseReset_timer (s : State) (k : ResetKind) : (s.raiseReset k).io.timer = s.io.timer := rfl
@[simp] theorem State.raiseReset_spi (s : State) (k : ResetKind) : (s.raiseReset k).io.spi = s.io.spi := rfl
@[simp] theorem State.raiseReset_sci (s : State) (k : ResetKind) : (s.raiseReset k).io.sci = s.io.sci := rfl
@[simp] theorem State.raiseReset_adc (s : State) (k : ResetKind) : (s.raiseReset k).io.adc = s.io.adc := rfl

/-- A reset is due after it was raised. -/
theorem State.raiseReset_pending (s : State) (k : ResetKind) : (s.raiseReset k).io.sys.pendingReset.isSome = true := rfl

/-- Two writes of PC: the last counts. -/
@[simp] theorem State.setPc_setPc (s : State) (v w : Word) : (s.setPc v).setPc w = s.setPc w := rfl

@[simp] theorem State.setPc_self (s : State) : s.setPc s.cpu.pc = s := rfl
@[simp] theorem State.setSp_setSp (s : State) (v w : Word) : (s.setSp v).setSp w = s.setSp w := rfl
@[simp] theorem State.setMem_self (s : State) : s.setMem s.mem = s := rfl

/-! The fields the map, the vectors and the write rules read are untouched by the updates of the CPU. -/

@[simp] theorem State.setA_rboot (s : State) (v : Byte) : (s.setA v).rboot = s.rboot := rfl
@[simp] theorem State.setA_smod (s : State) (v : Byte) : (s.setA v).smod = s.smod := rfl
@[simp] theorem State.setA_mda (s : State) (v : Byte) : (s.setA v).mda = s.mda := rfl
@[simp] theorem State.setA_psel (s : State) (v : Byte) : (s.setA v).psel = s.psel := rfl
@[simp] theorem State.setA_vectorBase (s : State) (v : Byte) : (s.setA v).vectorBase = s.vectorBase := rfl
@[simp] theorem State.setB_rboot (s : State) (v : Byte) : (s.setB v).rboot = s.rboot := rfl
@[simp] theorem State.setB_smod (s : State) (v : Byte) : (s.setB v).smod = s.smod := rfl
@[simp] theorem State.setB_mda (s : State) (v : Byte) : (s.setB v).mda = s.mda := rfl
@[simp] theorem State.setB_psel (s : State) (v : Byte) : (s.setB v).psel = s.psel := rfl
@[simp] theorem State.setB_vectorBase (s : State) (v : Byte) : (s.setB v).vectorBase = s.vectorBase := rfl
@[simp] theorem State.setIx_rboot (s : State) (v : Word) : (s.setIx v).rboot = s.rboot := rfl
@[simp] theorem State.setIx_smod (s : State) (v : Word) : (s.setIx v).smod = s.smod := rfl
@[simp] theorem State.setIx_mda (s : State) (v : Word) : (s.setIx v).mda = s.mda := rfl
@[simp] theorem State.setIx_psel (s : State) (v : Word) : (s.setIx v).psel = s.psel := rfl
@[simp] theorem State.setIx_vectorBase (s : State) (v : Word) : (s.setIx v).vectorBase = s.vectorBase := rfl
@[simp] theorem State.setIy_rboot (s : State) (v : Word) : (s.setIy v).rboot = s.rboot := rfl
@[simp] theorem State.setIy_smod (s : State) (v : Word) : (s.setIy v).smod = s.smod := rfl
@[simp] theorem State.setIy_mda (s : State) (v : Word) : (s.setIy v).mda = s.mda := rfl
@[simp] theorem State.setIy_psel (s : State) (v : Word) : (s.setIy v).psel = s.psel := rfl
@[simp] theorem State.setIy_vectorBase (s : State) (v : Word) : (s.setIy v).vectorBase = s.vectorBase := rfl
@[simp] theorem State.setSp_rboot (s : State) (v : Word) : (s.setSp v).rboot = s.rboot := rfl
@[simp] theorem State.setSp_smod (s : State) (v : Word) : (s.setSp v).smod = s.smod := rfl
@[simp] theorem State.setSp_mda (s : State) (v : Word) : (s.setSp v).mda = s.mda := rfl
@[simp] theorem State.setSp_psel (s : State) (v : Word) : (s.setSp v).psel = s.psel := rfl
@[simp] theorem State.setSp_vectorBase (s : State) (v : Word) : (s.setSp v).vectorBase = s.vectorBase := rfl
@[simp] theorem State.setPc_rboot (s : State) (v : Word) : (s.setPc v).rboot = s.rboot := rfl
@[simp] theorem State.setPc_smod (s : State) (v : Word) : (s.setPc v).smod = s.smod := rfl
@[simp] theorem State.setPc_mda (s : State) (v : Word) : (s.setPc v).mda = s.mda := rfl
@[simp] theorem State.setPc_psel (s : State) (v : Word) : (s.setPc v).psel = s.psel := rfl
@[simp] theorem State.setPc_vectorBase (s : State) (v : Word) : (s.setPc v).vectorBase = s.vectorBase := rfl
@[simp] theorem State.setCcr_rboot (s : State) (v : Ccr) : (s.setCcr v).rboot = s.rboot := rfl
@[simp] theorem State.setCcr_smod (s : State) (v : Ccr) : (s.setCcr v).smod = s.smod := rfl
@[simp] theorem State.setCcr_mda (s : State) (v : Ccr) : (s.setCcr v).mda = s.mda := rfl
@[simp] theorem State.setCcr_psel (s : State) (v : Ccr) : (s.setCcr v).psel = s.psel := rfl
@[simp] theorem State.setCcr_vectorBase (s : State) (v : Ccr) : (s.setCcr v).vectorBase = s.vectorBase := rfl
@[simp] theorem State.setRun_rboot (s : State) (v : RunState) : (s.setRun v).rboot = s.rboot := rfl
@[simp] theorem State.setRun_smod (s : State) (v : RunState) : (s.setRun v).smod = s.smod := rfl
@[simp] theorem State.setRun_mda (s : State) (v : RunState) : (s.setRun v).mda = s.mda := rfl
@[simp] theorem State.setRun_psel (s : State) (v : RunState) : (s.setRun v).psel = s.psel := rfl
@[simp] theorem State.setRun_vectorBase (s : State) (v : RunState) : (s.setRun v).vectorBase = s.vectorBase := rfl
@[simp] theorem State.setICleared_rboot (s : State) (v : Bool) : (s.setICleared v).rboot = s.rboot := rfl
@[simp] theorem State.setICleared_smod (s : State) (v : Bool) : (s.setICleared v).smod = s.smod := rfl
@[simp] theorem State.setICleared_mda (s : State) (v : Bool) : (s.setICleared v).mda = s.mda := rfl
@[simp] theorem State.setICleared_psel (s : State) (v : Bool) : (s.setICleared v).psel = s.psel := rfl
@[simp] theorem State.setICleared_vectorBase (s : State) (v : Bool) : (s.setICleared v).vectorBase = s.vectorBase := rfl

end Sys2Proof.Machine
end

