-- ==== Sys2Proof/Laws/Between.lean ====
section
/-! SUPPORT. What time and the outside world can do between two accesses, said once: they leave the CPU, the memories, the
parameters and the map alone, and do not look at the memories or at any CPU register but the run state. -/

namespace Sys2Proof.Machine

/-! SameCore is an equivalence. -/

theorem SameCore.refl (s : State) : SameCore s s := ⟨rfl, rfl, rfl, rfl, rfl, rfl⟩

theorem SameCore.trans {s t u : State} (h : SameCore s t) (k : SameCore t u) : SameCore s u :=
  ⟨k.1.trans h.1, k.2.1.trans h.2.1, k.2.2.1.trans h.2.2.1, k.2.2.2.1.trans h.2.2.2.1,
    k.2.2.2.2.1.trans h.2.2.2.2.1, k.2.2.2.2.2.trans h.2.2.2.2.2⟩

/-! The state with another CPU and other memories. -/

/-- The state with another CPU. -/
def State.withCpu (s : State) (c : Cpu) : State := { s with cpu := c }

/-- The state with another CPU and other memories. -/
def State.withCore (s : State) (c : Cpu) (m : Mem) : State := { s with cpu := c, mem := m }

theorem State.withCore_self {s t : State} (h : SameCore s t) : t.withCore s.cpu s.mem = t := by
  obtain ⟨hc, hm, _⟩ := h
  cases t
  simp only at hc hm
  subst hc hm
  rfl

/-! Time (R511). -/

theorem advanceTimer_core (n : Nat) (s : State) : SameCore s (advanceTimer n s) := by
  simp only [advanceTimer]
  split <;> exact ⟨rfl, rfl, rfl, rfl, rfl, rfl⟩

theorem advanceRti_core (n : Nat) (s : State) : SameCore s (advanceRti n s) := ⟨rfl, rfl, rfl, rfl, rfl, rfl⟩

theorem advancePulse_core (n : Nat) (s : State) : SameCore s (advancePulse n s) := by
  simp only [advancePulse]
  split <;> exact ⟨rfl, rfl, rfl, rfl, rfl, rfl⟩

theorem advanceSpi_core (n : Nat) (s : State) : SameCore s (advanceSpi n s) := by
  simp only [advanceSpi]
  split
  · exact SameCore.refl s
  · split <;> exact ⟨rfl, rfl, rfl, rfl, rfl, rfl⟩

theorem advanceSci_core (n : Nat) (s : State) : SameCore s (advanceSci n s) := by
  simp only [advanceSci]
  split
  · exact SameCore.refl s
  · split <;> exact ⟨rfl, rfl, rfl, rfl, rfl, rfl⟩

theorem advanceStrobe_core (n : Nat) (s : State) : SameCore s (advanceStrobe n s) := by
  simp only [advanceStrobe]
  split
  · exact SameCore.refl s
  · split <;> exact ⟨rfl, rfl, rfl, rfl, rfl, rfl⟩

theorem raiseReset_core (s : State) (k : ResetKind) : SameCore s (s.raiseReset k) := ⟨rfl, rfl, rfl, rfl, rfl, rfl⟩

theorem advanceCop_core (n : Nat) (s : State) : SameCore s (advanceCop n s) := by
  simp only [advanceCop]
  split
  · exact ⟨rfl, rfl, rfl, rfl, rfl, rfl⟩
  · split
    · exact ⟨rfl, rfl, rfl, rfl, rfl, rfl⟩
    · split <;> exact ⟨rfl, rfl, rfl, rfl, rfl, rfl⟩

/-- Time leaves the CPU, the memories and the map alone. -/
theorem advance_core (n : Nat) (s : State) : SameCore s (advance n s) := by
  have h := (advanceTimer_core n s).trans (advanceRti_core n _)
  have h := h.trans (advancePulse_core n _)
  have h := h.trans (advanceSpi_core n _)
  have h := h.trans (advanceSci_core n _)
  have h := h.trans (advanceStrobe_core n _)
  have h := h.trans (advanceCop_core n _)
  exact ⟨h.1, h.2.1, h.2.2.1, h.2.2.2.1, h.2.2.2.2.1, h.2.2.2.2.2⟩

/-! The outside world's moves (D27). -/

theorem whenClocked_core {f : State → State} (hf : ∀ s, SameCore s (f s)) (s : State) : SameCore s (whenClocked f s) := by
  unfold whenClocked
  split
  · exact hf s
  · exact SameCore.refl s

theorem setPins_core (s : State) (p : Pins) : SameCore s (s.setPins p) := ⟨rfl, rfl, rfl, rfl, rfl, rfl⟩

theorem straEdge_core (o n : Bool) (s : State) : SameCore s (straEdge o n s) := by
  simp only [straEdge]
  split <;> exact ⟨rfl, rfl, rfl, rfl, rfl, rfl⟩

theorem captureEdges_core (o n : Byte) (s : State) : SameCore s (captureEdges o n s) := ⟨rfl, rfl, rfl, rfl, rfl, rfl⟩

theorem pulseEdge_core (o n : Bool) (s : State) : SameCore s (pulseEdge o n s) := by
  simp only [pulseEdge]
  split
  · exact SameCore.refl s
  · split
    · exact ⟨rfl, rfl, rfl, rfl, rfl, rfl⟩
    · split <;> exact ⟨rfl, rfl, rfl, rfl, rfl, rfl⟩

theorem clockFails_core (s : State) : SameCore s (clockFails s) := by
  simp only [clockFails]
  split
  · exact raiseReset_core s _
  · exact SameCore.refl s

theorem spiSelected_core (s : State) : SameCore s (spiSelected s) := by
  simp only [spiSelected]
  split <;> exact ⟨rfl, rfl, rfl, rfl, rfl, rfl⟩

theorem portDLevels_core (v : Byte) (s : State) : SameCore s (portDLevels v s) := by
  simp only [portDLevels]
  split
  · exact ⟨rfl, rfl, rfl, rfl, rfl, rfl⟩
  · split
    · exact (setPins_core s _).trans (whenClocked_core spiSelected_core _)
    · exact setPins_core s _

theorem sciCharacter_core (d : BitVec 9) (noise framing : Bool) (s : State) : SameCore s (sciCharacter d noise framing s) := by
  simp only [sciCharacter]
  split
  · exact ⟨rfl, rfl, rfl, rfl, rfl, rfl⟩
  · split <;> exact ⟨rfl, rfl, rfl, rfl, rfl, rfl⟩

theorem sciIdleLine_core (s : State) : SameCore s (sciIdleLine s) := by
  simp only [sciIdleLine]
  split
  · exact SameCore.refl s
  · split
    · split <;> exact ⟨rfl, rfl, rfl, rfl, rfl, rfl⟩
    · exact ⟨rfl, rfl, rfl, rfl, rfl, rfl⟩

theorem sciShifterReady_core (s : State) : SameCore s (sciShifterReady s) := by
  simp only [sciShifterReady]
  split
  · exact SameCore.refl s
  · split
    · split <;> exact ⟨rfl, rfl, rfl, rfl, rfl, rfl⟩
    · split
      · split <;> exact ⟨rfl, rfl, rfl, rfl, rfl, rfl⟩
      · exact SameCore.refl s

theorem spiSlaveStart_core (s : State) : SameCore s (spiSlaveStart s) := by
  simp only [spiSlaveStart]
  split <;> exact ⟨rfl, rfl, rfl, rfl, rfl, rfl⟩

theorem spiClocked_core (d : Byte) (s : State) : SameCore s (spiClocked d s) := by
  simp only [spiClocked]
  split <;> exact ⟨rfl, rfl, rfl, rfl, rfl, rfl⟩

theorem adcResult_core (d : Byte) (s : State) : SameCore s (adcResult d s) := by
  simp only [adcResult]
  split <;> exact ⟨rfl, rfl, rfl, rfl, rfl, rfl⟩

/-- A move of the outside world leaves the CPU, the memories and the map alone. -/
theorem applyInput_core (s : State) (i : Input) : SameCore s (applyInput s i) := by
  cases i with
  | resetPin => exact raiseReset_core s _
  | clockFailure => exact clockFails_core s
  | modePins a b => exact setPins_core s _
  | irqPin l => exact ⟨rfl, rfl, rfl, rfl, rfl, rfl⟩
  | xirqPin l => exact setPins_core s _
  | straPin l => exact (setPins_core s _).trans (whenClocked_core (straEdge_core _ _) _)
  | portA v =>
    exact (setPins_core s _).trans
      (whenClocked_core (fun t => (captureEdges_core _ _ t).trans (pulseEdge_core _ _ _)) _)
  | portC v => exact setPins_core s _
  | portD v => exact portDLevels_core v s
  | portE v => exact setPins_core s _
  | sciCharacter d noise framing => exact whenClocked_core (sciCharacter_core _ _ _) s
  | sciIdleLine => exact whenClocked_core sciIdleLine_core s
  | sciShifterReady => exact whenClocked_core sciShifterReady_core s
  | spiIncoming d => exact setPins_core s _
  | spiSlaveStart => exact whenClocked_core spiSlaveStart_core s
  | spiClocked d => exact whenClocked_core (spiClocked_core d) s
  | adcResult d => exact whenClocked_core (adcResult_core d) s

theorem applyInputs_core (moves : List Input) : ∀ s : State, SameCore s (moves.foldl applyInput s) := by
  induction moves with
  | nil => intro s; exact SameCore.refl s
  | cons i moves ih => intro s; exact (applyInput_core s i).trans (ih _)

theorem takeInputs_core (s : State) : SameCore s (takeInputs s) := by
  unfold takeInputs
  split
  · exact SameCore.refl s
  · next moves later _ =>
    have h := applyInputs_core moves { s with inputs := later }
    exact ⟨h.1, h.2.1, h.2.2.1, h.2.2.2.1, h.2.2.2.2.1, h.2.2.2.2.2⟩

theorem pause_core (s : State) : SameCore s (pause s) := by
  unfold pause
  split
  · exact SameCore.refl s
  · exact takeInputs_core s

theorem pauses_core (n : Nat) : ∀ s : State, SameCore s (pauses n s) := by
  induction n with
  | zero => intro s; exact SameCore.refl s
  | succ n ih => intro s; exact (pause_core s).trans (ih _)

/-- What a beat leaves alone. -/
theorem beat_core (s : State) : SameCore s (beat s) := by
  unfold beat
  split
  · exact SameCore.refl s
  · exact (advance_core 1 s).trans (takeInputs_core _)

theorem beats_core (n : Nat) : ∀ s : State, SameCore s (beats n s) := by
  induction n with
  | zero => intro s; exact SameCore.refl s
  | succ n ih => intro s; exact (beat_core s).trans (ih _)

/-! Neither looks at the memories, nor at the CPU but for its run state. -/

/-- A choice by a condition that does not look at the core. -/
theorem ite_withCore {p q : Prop} [Decidable p] [Decidable q] (hpq : p = q) {a b a' b' : State} {c : Cpu} {m : Mem}
    (ha : a' = a.withCore c m) (hb : b' = b.withCore c m) :
    (if p then a' else b') = (if q then a else b).withCore c m := by
  subst hpq
  split
  · exact ha
  · exact hb

theorem advanceTimer_withCore (n : Nat) (s : State) (c : Cpu) (m : Mem) :
    advanceTimer n (s.withCore c m) = (advanceTimer n s).withCore c m := ite_withCore rfl rfl rfl

theorem advancePulse_withCore (n : Nat) (s : State) (c : Cpu) (m : Mem) :
    advancePulse n (s.withCore c m) = (advancePulse n s).withCore c m := ite_withCore rfl rfl rfl

theorem advanceSpi_withCore (n : Nat) (s : State) (c : Cpu) (m : Mem) :
    advanceSpi n (s.withCore c m) = (advanceSpi n s).withCore c m := by
  simp only [advanceSpi, show (s.withCore c m).io.spi = s.io.spi from rfl]
  split
  · rfl
  · split <;> rfl

theorem advanceSci_withCore (n : Nat) (s : State) (c : Cpu) (m : Mem) :
    advanceSci n (s.withCore c m) = (advanceSci n s).withCore c m := by
  simp only [advanceSci, show (s.withCore c m).io.sci = s.io.sci from rfl]
  split
  · rfl
  · split <;> rfl

theorem advanceStrobe_withCore (n : Nat) (s : State) (c : Cpu) (m : Mem) :
    advanceStrobe n (s.withCore c m) = (advanceStrobe n s).withCore c m := by
  simp only [advanceStrobe, show (s.withCore c m).io.ports = s.io.ports from rfl]
  split
  · rfl
  · split <;> rfl

theorem advanceCop_withCore (n : Nat) (s : State) (c : Cpu) (m : Mem) :
    advanceCop n (s.withCore c m) = (advanceCop n s).withCore c m := by
  simp only [advanceCop, show (s.withCore c m).io.sys = s.io.sys from rfl, show copEnabled (s.withCore c m) = copEnabled s from rfl,
    show (s.withCore c m).draws = s.draws from rfl]
  split
  · rfl
  · split
    · rfl
    · split <;> rfl

theorem advance_withCore (n : Nat) (s : State) (c : Cpu) (m : Mem) : advance n (s.withCore c m) = (advance n s).withCore c m := by
  unfold advance
  rw [advanceTimer_withCore, show ∀ t : State, advanceRti n (t.withCore c m) = (advanceRti n t).withCore c m from fun _ => rfl,
    advancePulse_withCore, advanceSpi_withCore, advanceSci_withCore, advanceStrobe_withCore, advanceCop_withCore]
  rfl

theorem whenClocked_withCore (f : State → State) {c : Cpu} {m : Mem} (hf : ∀ s, f (s.withCore c m) = (f s).withCore c m)
    (s : State) (hr : c.run = s.cpu.run) : whenClocked f (s.withCore c m) = (whenClocked f s).withCore c m := by
  unfold whenClocked State.clocked
  rw [show (s.withCore c m).cpu.run = s.cpu.run from hr]
  exact ite_withCore rfl (hf s) rfl

theorem straEdge_withCore (o n : Bool) (s : State) (c : Cpu) (m : Mem) :
    straEdge o n (s.withCore c m) = (straEdge o n s).withCore c m := ite_withCore rfl rfl rfl

theorem pulseEdge_withCore (o n : Bool) (s : State) (c : Cpu) (m : Mem) :
    pulseEdge o n (s.withCore c m) = (pulseEdge o n s).withCore c m :=
  ite_withCore rfl rfl (ite_withCore rfl rfl (ite_withCore rfl rfl rfl))

theorem portDLevels_withCore (v : Byte) (s : State) {c : Cpu} (m : Mem) (hr : c.run = s.cpu.run) :
    portDLevels v (s.withCore c m) = (portDLevels v s).withCore c m :=
  ite_withCore rfl rfl (ite_withCore rfl
    (whenClocked_withCore spiSelected (fun _ => ite_withCore rfl rfl rfl) (s.setPins { s.pins with portD := v }) hr) rfl)

theorem sciCharacter_withCore (d : BitVec 9) (noise framing : Bool) (s : State) (c : Cpu) (m : Mem) :
    sciCharacter d noise framing (s.withCore c m) = (sciCharacter d noise framing s).withCore c m :=
  ite_withCore rfl rfl (ite_withCore rfl rfl rfl)

theorem sciIdleLine_withCore (s : State) (c : Cpu) (m : Mem) : sciIdleLine (s.withCore c m) = (sciIdleLine s).withCore c m :=
  ite_withCore rfl rfl (ite_withCore rfl (ite_withCore rfl rfl rfl) rfl)

theorem sciShifterReady_withCore (s : State) (c : Cpu) (m : Mem) :
    sciShifterReady (s.withCore c m) = (sciShifterReady s).withCore c m := by
  have h : ∀ p : Sci, (if (sciPrescaler s.io.sci.baud).isNone then (s.withCore c m).drawn 1 else s.withCore c m).setSci p =
      ((if (sciPrescaler s.io.sci.baud).isNone then s.drawn 1 else s).setSci p).withCore c m := by
    intro p
    split <;> rfl
  exact ite_withCore rfl rfl (ite_withCore rfl (h _) (ite_withCore rfl (h _) rfl))

theorem spiSlaveStart_withCore (s : State) (c : Cpu) (m : Mem) :
    spiSlaveStart (s.withCore c m) = (spiSlaveStart s).withCore c m := ite_withCore rfl rfl rfl

theorem spiClocked_withCore (d : Byte) (s : State) (c : Cpu) (m : Mem) :
    spiClocked d (s.withCore c m) = (spiClocked d s).withCore c m := ite_withCore rfl rfl rfl

theorem adcResult_withCore (d : Byte) (s : State) (c : Cpu) (m : Mem) :
    adcResult d (s.withCore c m) = (adcResult d s).withCore c m := ite_withCore rfl rfl rfl

theorem applyInput_withCore (s : State) (i : Input) {c : Cpu} (m : Mem) (hr : c.run = s.cpu.run) :
    applyInput (s.withCore c m) i = (applyInput s i).withCore c m := by
  cases i with
  | clockFailure => exact ite_withCore rfl rfl rfl
  | straPin l =>
    exact whenClocked_withCore (straEdge s.pins.stra l) (fun t => straEdge_withCore _ _ t c m)
      (s.setPins { s.pins with stra := l }) hr
  | portA v =>
    exact whenClocked_withCore (fun t => pulseEdge (bit s.pins.portA 7) (bit v 7) (captureEdges s.pins.portA v t))
      (fun t => pulseEdge_withCore _ _ (captureEdges s.pins.portA v t) c m) (s.setPins { s.pins with portA := v }) hr
  | portD v => exact portDLevels_withCore v s m hr
  | sciCharacter d noise framing => exact whenClocked_withCore _ (fun t => sciCharacter_withCore _ _ _ t c m) s hr
  | sciIdleLine => exact whenClocked_withCore _ (fun t => sciIdleLine_withCore t c m) s hr
  | sciShifterReady => exact whenClocked_withCore _ (fun t => sciShifterReady_withCore t c m) s hr
  | spiSlaveStart => exact whenClocked_withCore _ (fun t => spiSlaveStart_withCore t c m) s hr
  | spiClocked d => exact whenClocked_withCore _ (fun t => spiClocked_withCore d t c m) s hr
  | adcResult d => exact whenClocked_withCore _ (fun t => adcResult_withCore d t c m) s hr
  | _ => rfl

theorem applyInputs_withCore (moves : List Input) : ∀ (s : State) {c : Cpu} (m : Mem), c.run = s.cpu.run →
    moves.foldl applyInput (s.withCore c m) = (moves.foldl applyInput s).withCore c m := by
  induction moves with
  | nil => intro s c m _; rfl
  | cons i moves ih =>
    intro s c m hr
    simp only [List.foldl_cons]
    rw [applyInput_withCore s i m hr, ih _ m (by rw [(applyInput_core s i).1]; exact hr)]

theorem takeInputs_withCore (s : State) {c : Cpu} (m : Mem) (hr : c.run = s.cpu.run) :
    takeInputs (s.withCore c m) = (takeInputs s).withCore c m := by
  unfold takeInputs
  rw [show (s.withCore c m).inputs = s.inputs from rfl]
  split
  · rfl
  · next moves later _ => exact applyInputs_withCore moves { s with inputs := later } m hr

/-- A pause does not look at the memories, nor at the CPU but for its run state. -/
theorem pause_withCore (s : State) {c : Cpu} (m : Mem) (hr : c.run = s.cpu.run) :
    pause (s.withCore c m) = (pause s).withCore c m := by
  unfold pause
  rw [show (s.withCore c m).resetDue = s.resetDue from rfl]
  split
  · rfl
  · exact takeInputs_withCore s m hr

theorem pauses_withCore (n : Nat) : ∀ (s : State) {c : Cpu} (m : Mem), c.run = s.cpu.run →
    pauses n (s.withCore c m) = (pauses n s).withCore c m := by
  induction n with
  | zero => intro s c m _; rfl
  | succ n ih =>
    intro s c m hr
    show pauses n (pause (s.withCore c m)) = _
    rw [pause_withCore s m hr, ih _ m (by rw [(pause_core s).1]; exact hr)]
    rfl

/-- A beat does not look at the memories, nor at the CPU but for its run state. -/
theorem beat_withCore (s : State) {c : Cpu} (m : Mem) (hr : c.run = s.cpu.run) :
    beat (s.withCore c m) = (beat s).withCore c m := by
  unfold beat
  rw [show (s.withCore c m).resetDue = s.resetDue from rfl]
  split
  · rfl
  · rw [advance_withCore, takeInputs_withCore _ m (by rw [(advance_core 1 s).1]; exact hr)]

theorem beats_withCore (n : Nat) : ∀ (s : State) {c : Cpu} (m : Mem), c.run = s.cpu.run →
    beats n (s.withCore c m) = (beats n s).withCore c m := by
  induction n with
  | zero => intro s c m _; rfl
  | succ n ih =>
    intro s c m hr
    show beats n (beat (s.withCore c m)) = _
    rw [beat_withCore s m hr, ih _ m (by rw [(beat_core s).1]; exact hr)]
    rfl

theorem beat_withCpu (s : State) {c : Cpu} (hr : c.run = s.cpu.run) : beat (s.withCpu c) = (beat s).withCpu c := by
  have h := beat_withCore s s.mem hr
  have hm := (beat_core s).2.1
  have e : (beat s).withCore c s.mem = (beat s).withCpu c := by
    cases hb : beat s
    rw [hb] at hm
    simp only at hm
    subst hm
    rfl
  rw [← e, ← h]
  rfl

/-! A reset that is due stays due, and nothing more happens (R490). -/

theorem beat_due {s : State} (h : s.resetDue = true) : beat s = s := by unfold beat; rw [if_pos h]

theorem beats_due (n : Nat) {s : State} (h : s.resetDue = true) : beats n s = s := by
  induction n with
  | zero => rfl
  | succ n ih => show beats n (beat s) = s; rw [beat_due h, ih]

theorem beats_add (m n : Nat) (s : State) : beats (m + n) s = beats n (beats m s) := by
  induction m generalizing s with
  | zero => rw [Nat.zero_add]; rfl
  | succ m ih => rw [Nat.succ_add]; exact ih (beat s)

/-- Where no reset becomes due in `n` beats none has after the first of them. -/
theorem quiet_first {n : Nat} {s : State} (h : quiet (n + 1) s = true) : (beat s).resetDue = false ∧ quiet n (beat s) = true := by
  refine ⟨?_, h⟩
  cases e : (beat s).resetDue
  · rfl
  · unfold quiet at h
    rw [show beats (n + 1) s = beats n (beat s) from rfl, beats_due n e, e] at h
    cases h

theorem quiet_le {m n : Nat} {s : State} (hmn : m ≤ n) (h : quiet n s = true) : quiet m s = true := by
  obtain ⟨k, rfl⟩ := Nat.le.dest hmn
  unfold quiet at h ⊢
  rw [beats_add] at h
  cases e : (beats m s).resetDue
  · rfl
  · rw [beats_due k e, e] at h
    cases h

end Sys2Proof.Machine
end

