-- ==== Sys2Proof/Laws/Memory.lean ====
section
/-! SUPPORT. The laws of a memory: a read after a write, and the canonical form, which every operation keeps. -/

namespace Sys2Proof.Machine

/-! Reading after each operation. -/

theorem Memory.read_erase_same (m : Memory) (a : Nat) : (Memory.erase m a).read a = unwritten := by
  induction m with
  | nil => rfl
  | cons c m ih =>
    obtain ⟨k, b⟩ := c
    by_cases h : k = a
    · simpa [Memory.erase, h] using ih
    · have h' : a ≠ k := fun e => h e.symm
      simpa [Memory.erase, Memory.read, h, h'] using ih

theorem Memory.read_erase_other (m : Memory) {a x : Nat} (hx : x ≠ a) : (Memory.erase m a).read x = m.read x := by
  induction m with
  | nil => rfl
  | cons c m ih =>
    obtain ⟨k, b⟩ := c
    by_cases h : k = a
    · have hk : x ≠ k := fun e => hx (e.trans h)
      simpa [Memory.erase, Memory.read, h, hx] using ih
    · by_cases hk : x = k
      · simp [Memory.erase, Memory.read, h, hk]
      · simpa [Memory.erase, Memory.read, h, hk] using ih

theorem Memory.read_insert_same (m : Memory) (a : Nat) (v : Byte) : (Memory.insert m a v).read a = v := by
  induction m with
  | nil => simp [Memory.insert, Memory.read]
  | cons c m ih =>
    obtain ⟨k, b⟩ := c
    simp only [Memory.insert]
    split
    · simp [Memory.read]
    · split
      · simp [Memory.read]
      · next h => simpa [Memory.read, h] using ih

theorem Memory.read_insert_other (m : Memory) {a x : Nat} (v : Byte) (hx : x ≠ a) :
    (Memory.insert m a v).read x = m.read x := by
  induction m with
  | nil => simp [Memory.insert, Memory.read, hx]
  | cons c m ih =>
    obtain ⟨k, b⟩ := c
    simp only [Memory.insert]
    split
    · simp [Memory.read, hx]
    · split
      · next h => simp [Memory.read, hx, ← h]
      · simp [Memory.read, ih]

/-- A read after a write to the same key gives the byte written. -/
theorem Memory.read_write_same (m : Memory) (a : Nat) (v : Byte) : (Memory.write m a v).read a = v := by
  unfold Memory.write
  split
  · next h => rw [Memory.read_erase_same, h]
  · exact Memory.read_insert_same m a v

/-- A write leaves every other key alone. -/
theorem Memory.read_write_other (m : Memory) {a x : Nat} (v : Byte) (hx : x ≠ a) : (Memory.write m a v).read x = m.read x := by
  unfold Memory.write
  split
  · exact Memory.read_erase_other m hx
  · exact Memory.read_insert_other m v hx

/-! The canonical form. -/

theorem Memory.risesFrom_weaken {m : Memory} {low low' : Nat} (h : Memory.risesFrom low m = true) (hl : low' ≤ low) :
    Memory.risesFrom low' m = true := by
  cases m with
  | nil => rfl
  | cons c m =>
    simp only [Memory.risesFrom, Bool.and_eq_true, decide_eq_true_eq] at h ⊢
    exact ⟨by omega, h.2⟩

theorem Memory.risesFrom_erase {m : Memory} {low : Nat} (a : Nat) (h : Memory.risesFrom low m = true) :
    Memory.risesFrom low (Memory.erase m a) = true := by
  induction m generalizing low with
  | nil => rfl
  | cons c m ih =>
    obtain ⟨k, b⟩ := c
    simp only [Memory.risesFrom, Bool.and_eq_true, decide_eq_true_eq] at h
    have ih' := ih h.2
    by_cases hk : k = a
    · have : Memory.erase ((k, b) :: m) a = Memory.erase m a := by simp [Memory.erase, hk]
      rw [this]
      exact Memory.risesFrom_weaken ih' (by omega)
    · have : Memory.erase ((k, b) :: m) a = (k, b) :: Memory.erase m a := by simp [Memory.erase, hk]
      rw [this]
      simp [Memory.risesFrom, h.1, ih']

theorem Memory.risesFrom_insert {m : Memory} {low a : Nat} (v : Byte) (h : Memory.risesFrom low m = true) (hl : low ≤ a) :
    Memory.risesFrom low (Memory.insert m a v) = true := by
  induction m generalizing low with
  | nil => simp [Memory.insert, Memory.risesFrom, hl]
  | cons c m ih =>
    obtain ⟨k, b⟩ := c
    simp only [Memory.risesFrom, Bool.and_eq_true, decide_eq_true_eq] at h
    simp only [Memory.insert]
    split
    · next hak => simp [Memory.risesFrom, hl, h.2, Nat.succ_le_of_lt hak]
    · next hak =>
      split
      · next he => simp [Memory.risesFrom, hl, he ▸ h.2]
      · next hne => simp [Memory.risesFrom, h.1, ih h.2 (by omega : k + 1 ≤ a)]

theorem Memory.all_insert {m : Memory} {a : Nat} {v : Byte} {p : Host.Cell → Bool} (h : m.all p = true) (hv : p (a, v) = true) :
    (Memory.insert m a v).all p = true := by
  induction m with
  | nil => simp [Memory.insert, hv]
  | cons c m ih =>
    obtain ⟨k, b⟩ := c
    simp only [List.all_cons, Bool.and_eq_true] at h
    simp only [Memory.insert]
    split
    · simp only [List.all_cons, Bool.and_eq_true]; exact ⟨hv, h⟩
    · split
      · simp only [List.all_cons, Bool.and_eq_true]; exact ⟨hv, h.2⟩
      · simp only [List.all_cons, Bool.and_eq_true]; exact ⟨h.1, ih h.2⟩

theorem Memory.all_erase {m : Memory} (a : Nat) {p : Host.Cell → Bool} (h : m.all p = true) : (Memory.erase m a).all p = true := by
  rw [List.all_eq_true] at h ⊢
  intro c hc
  exact h c (List.mem_filter.mp hc).1

/-- A write keeps the canonical form. -/
theorem Memory.write_wf {m : Memory} (a : Nat) (v : Byte) (h : m.wf = true) : (Memory.write m a v).wf = true := by
  simp only [Memory.wf, Bool.and_eq_true] at h ⊢
  unfold Memory.write
  split
  · exact ⟨Memory.risesFrom_erase a h.1, Memory.all_erase a h.2⟩
  · next hv => exact ⟨Memory.risesFrom_insert v h.1 (Nat.zero_le a), Memory.all_insert h.2 (by simpa using hv)⟩

/-- A write below the bound keeps every key below it. -/
theorem Memory.write_below {m : Memory} {a n : Nat} (v : Byte) (h : Memory.below n m = true) (ha : a < n) :
    Memory.below n (Memory.write m a v) = true := by
  unfold Memory.below at h ⊢
  unfold Memory.write
  split
  · exact Memory.all_erase a h
  · exact Memory.all_insert h (by simpa using ha)

/-- No key of a memory that rises from `low` is below it. -/
theorem Memory.read_of_risesFrom {m : Memory} {low a : Nat} (h : Memory.risesFrom low m = true) (ha : a < low) :
    m.read a = unwritten := by
  induction m generalizing low with
  | nil => rfl
  | cons c m ih =>
    obtain ⟨k, b⟩ := c
    simp only [Memory.risesFrom, Bool.and_eq_true, decide_eq_true_eq] at h
    have hk : a ≠ k := by omega
    simp only [Memory.read, hk, if_false]
    exact ih h.2 (by omega)

/-- Two canonical memories that read alike are equal: the form is canonical. -/
theorem Memory.eq_of_read {m m' : Memory} {low : Nat} (h : Memory.risesFrom low m = true) (h' : Memory.risesFrom low m' = true)
    (hm : (m.all fun c => c.2 ≠ unwritten) = true) (hm' : (m'.all fun c => c.2 ≠ unwritten) = true)
    (e : ∀ a, m.read a = m'.read a) : m = m' := by
  induction m generalizing low m' with
  | nil =>
    cases m' with
    | nil => rfl
    | cons c m' =>
      obtain ⟨k, b⟩ := c
      have := e k
      simp [Memory.read] at this hm'
      exact absurd this.symm hm'.1
  | cons c m ih =>
    obtain ⟨k, b⟩ := c
    cases m' with
    | nil =>
      have := e k
      simp [Memory.read] at this hm
      exact absurd this hm.1
    | cons c' m' =>
      obtain ⟨k', b'⟩ := c'
      simp only [Memory.risesFrom, Bool.and_eq_true, decide_eq_true_eq] at h h'
      simp only [List.all_cons, Bool.and_eq_true, decide_eq_true_eq] at hm hm'
      have hk : k = k' := by
        rcases Nat.lt_trichotomy k k' with lt | eq | gt
        · have e1 := e k
          have hne : k ≠ k' := by omega
          simp only [Memory.read, if_true, hne, if_false] at e1
          rw [Memory.read_of_risesFrom h'.2 (by omega)] at e1
          exact absurd e1 hm.1
        · exact eq
        · have e1 := e k'
          have hne : k' ≠ k := by omega
          simp only [Memory.read, if_true, hne, if_false] at e1
          rw [Memory.read_of_risesFrom h.2 (by omega)] at e1
          exact absurd e1.symm hm'.1
      subst hk
      have hb : b = b' := by simpa [Memory.read] using e k
      subst hb
      have : m = m' := by
        apply ih h.2 h'.2 hm.2 hm'.2
        intro a
        by_cases ha : a = k
        · subst ha
          rw [Memory.read_of_risesFrom h.2 (by omega), Memory.read_of_risesFrom h'.2 (by omega)]
        · simpa [Memory.read, ha] using e a
      rw [this]

/-- Canonical memories that read alike at every key are equal data. -/
theorem Memory.ext_of_wf {m m' : Memory} (h : m.wf = true) (h' : m'.wf = true) (e : ∀ a, m.read a = m'.read a) : m = m' := by
  simp only [Memory.wf, Bool.and_eq_true] at h h'
  exact Memory.eq_of_read h.1 h'.1 h.2 h'.2 e

/-- The memories of the reset state are canonical. -/
theorem reset_mem_wf : State.reset.mem.wf = true := by decide

end Sys2Proof.Machine
end

