-- ==== Sys2Proof/Laws/Ops.lean ====
section
/-! SUPPORT. What each shared operation can do, said once: sequencing, the map, a read, a store, the stack. -/

namespace Sys2Proof.Machine

/-! Sequencing. -/

@[simp] theorem andThen_next (s : State) (f : State → Result) : andThen (.next s) f = f s := rfl

@[simp] theorem andThen_refused (r : Refusal) (f : State → Result) : andThen (.refused r) f = .refused r := rfl

/-- A sequence completes when both parts do. -/
theorem andThen_eq_next {o : Result} {f : State → Result} {t : State} (h : andThen o f = .next t) :
    ∃ m, o = .next m ∧ f m = .next t := by
  cases o with
  | next m => exact ⟨m, rfl, h⟩
  | fault r => cases h
  | refused r => cases h

/-! The map: it depends on the system registers and the parameters alone (R136). -/

/-- What stands at an address is the same after time and the outside world have moved. -/
theorem resolve_core {s t : State} (h : SameCore s t) (a : Word) : resolve t a = resolve s a := by
  obtain ⟨_, _, hp, hi, hh, hc⟩ := h
  unfold resolve resolve.resolveRom State.bootRomOn State.rboot State.smod State.mda
  rw [hp, hi, hh, hc]

theorem resolve_congr {s t : State} (hs : t.io.sys = s.io.sys) (hp : t.params = s.params) (a : Word) :
    resolve t a = resolve s a := by
  unfold resolve resolve.resolveRom State.bootRomOn State.rboot State.smod State.mda
  rw [hs, hp]

/-- An offset in RAM names one address. -/
theorem resolve_ram {s : State} {a : Word} {k : Nat} (h : resolve s a = .ram k) :
    a.toNat = s.io.sys.init.toNat / 16 * 4096 + k ∧ k < ramSize s.params.device := by
  simp only [resolve] at h
  split at h
  · cases h
  · split at h
    · next h2 =>
      injection h with h
      subst h
      refine ⟨?_, h2.2⟩
      omega
    · split at h
      · cases h
      · split at h
        · split at h
          · cases h
          · simp only [resolve.resolveRom] at h
            split at h <;> try cases h
            split at h <;> cases h
        · simp only [resolve.resolveRom] at h
          split at h <;> try cases h
          split at h <;> cases h

/-- An external access goes out at the address itself. -/
theorem resolve_ext {s : State} {a : Word} {n : Nat} {k : ExtKind} (h : resolve s a = .ext n k) : n = a.toNat := by
  simp only [resolve] at h
  split at h
  · cases h
  · split at h
    · cases h
    · split at h
      · cases h
      · split at h
        · split at h
          · cases h
          · simp only [resolve.resolveRom] at h
            split at h <;> try cases h
            split at h <;> cases h
            rfl
        · simp only [resolve.resolveRom] at h
          split at h <;> try cases h
          split at h <;> cases h
          rfl

/-- Where the register block answers, and with which register. -/
theorem resolve_register_iff {s : State} {a : Word} {off : Nat} :
    resolve s a = .register off ↔ off < 64 ∧ a = regAddr s off := by
  have h16 : s.io.sys.init.toNat % 16 < 16 := Nat.mod_lt _ (by decide)
  have ha := a.isLt
  have key : (∃ o', resolve s a = .register o') → a.toNat / 4096 = s.io.sys.init.toNat % 16 ∧ a.toNat % 4096 < 64 ∧ resolve s a = .register (a.toNat % 4096) := by
    rintro ⟨o, h⟩
    simp only [resolve] at h ⊢
    split at h
    · next hc => exact ⟨hc.1, hc.2, by rw [if_pos hc]⟩
    · exfalso
      split at h
      · cases h
      · split at h
        · cases h
        · have hr : ∀ n o, resolve.resolveRom s n ≠ .register o := by
            intro n o; unfold resolve.resolveRom; split
            · nofun
            · nofun
            · split <;> nofun
          split at h
          · split at h
            · cases h
            · exact hr _ _ h
          · exact hr _ _ h
  constructor
  · intro h
    obtain ⟨h1, h2, h3⟩ := key ⟨off, h⟩
    rw [h] at h3
    injection h3 with h3
    subst h3
    refine ⟨h2, ?_⟩
    apply BitVec.eq_of_toNat_eq
    rw [regAddr, BitVec.toNat_ofNat, ← h1]
    omega
  · rintro ⟨h, rfl⟩
    have e : (regAddr s off).toNat = s.io.sys.init.toNat % 16 * 4096 + off := by
      rw [regAddr, BitVec.toNat_ofNat, Nat.mod_eq_of_lt (by omega)]
    simp only [resolve, e]
    rw [if_pos ⟨by omega, by omega⟩]
    congr 1
    omega

theorem resolve_regAddr (s : State) {off : Nat} (h : off < 64) : resolve s (regAddr s off) = .register off :=
  resolve_register_iff.2 ⟨h, rfl⟩

/-- A read of a register. -/
theorem readByte_regAddr (s : State) {off : Nat} (h : off < 64) :
    readByte s (regAddr s off) = readRegister (registerAt off) s := by
  simp only [readByte, resolve_regAddr s h]

/-- A write of a register that the spec does not refuse. -/
theorem writeByte_regAddr {s : State} {off : Nat} (h : off < 64) {v : Byte} (hr : registerRefusal (registerAt off) v s = none) :
    writeByte s (regAddr s off) v = .next (writeRegister (registerAt off) v s) := by
  simp only [writeByte, storeRefusal, store, resolve_regAddr s h, hr]

/-! Reads. -/

/-- What a read can change: the flag-clearing state of the ports, the SPI and the SCI, and the count of free values
(R151). -/
structure ReadFrame (s t : State) : Prop where
  cpu : t.cpu = s.cpu
  mem : t.mem = s.mem
  pins : t.pins = s.pins
  params : t.params = s.params
  inputs : t.inputs = s.inputs
  timer : t.io.timer = s.io.timer
  adc : t.io.adc = s.io.adc
  sys : t.io.sys = s.io.sys

theorem ReadFrame.refl (s : State) : ReadFrame s s := ⟨rfl, rfl, rfl, rfl, rfl, rfl, rfl, rfl⟩

theorem ReadFrame.trans {s t u : State} (h : ReadFrame s t) (k : ReadFrame t u) : ReadFrame s u :=
  ⟨k.cpu.trans h.cpu, k.mem.trans h.mem, k.pins.trans h.pins, k.params.trans h.params, k.inputs.trans h.inputs,
    k.timer.trans h.timer, k.adc.trans h.adc, k.sys.trans h.sys⟩

theorem readPortC_frame (s : State) : ReadFrame s (readPortC s).2 := by
  unfold readPortC
  split <;> exact ⟨rfl, rfl, rfl, rfl, rfl, rfl, rfl, rfl⟩

theorem readPioc_frame (s : State) : ReadFrame s (readPioc s).2 := by
  simp only [readPioc]
  split <;> exact ⟨rfl, rfl, rfl, rfl, rfl, rfl, rfl, rfl⟩

theorem readPortCl_frame (s : State) : ReadFrame s (readPortCl s).2 := by
  simp only [readPortCl]
  split
  · exact ReadFrame.refl s
  · simp only
    split <;> exact ⟨rfl, rfl, rfl, rfl, rfl, rfl, rfl, rfl⟩

theorem readRegister_frame (r : IoReg) (s : State) : ReadFrame s (readRegister r s).2 := by
  cases r
  case portc => exact readPortC_frame s
  case pioc => exact readPioc_frame s
  case portcl => exact readPortCl_frame s
  case eprog => simp only [readRegister]; split <;> exact ⟨rfl, rfl, rfl, rfl, rfl, rfl, rfl, rfl⟩
  case test1 => simp only [readRegister]; split <;> exact ⟨rfl, rfl, rfl, rfl, rfl, rfl, rfl, rfl⟩
  all_goals exact ⟨rfl, rfl, rfl, rfl, rfl, rfl, rfl, rfl⟩

/-- A read changes nothing but what ReadFrame leaves open. -/
theorem readByte_frame (s : State) (a : Word) : ReadFrame s (readByte s a).2 := by
  unfold readByte
  split
  · exact readRegister_frame _ _
  all_goals exact ⟨rfl, rfl, rfl, rfl, rfl, rfl, rfl, rfl⟩

/-- A read leaves the CPU, the memories and the map alone. -/
theorem readByte_core (s : State) (a : Word) : SameCore s (readByte s a).2 := by
  have h := readByte_frame s a
  exact ⟨h.cpu, h.mem, h.params, by rw [h.sys], by rw [h.sys], by rw [h.sys]⟩

/-- So does a read of two bytes with anything between them that does. -/
theorem readPair_core {between : State → State} (hb : ∀ s, SameCore s (between s)) (s : State) (a : Word) :
    SameCore s (readPair between s a).2 := ((readByte_core s a).trans (hb _)).trans (readByte_core _ _)

theorem readWord_core (s : State) (a : Word) : SameCore s (readWord s a).2 := readPair_core beat_core s a

/-- A read of memory returns what it holds and changes nothing. -/
theorem readByte_memory {s : State} {a : Word} (h : isMemory s a = true) : readByte s a = (peek s a, s) := by
  unfold isMemory at h
  unfold peek readByte
  split at h <;> first | (cases h; done) | (next e => simp only [e])

theorem isMemory_core {s t : State} (h : SameCore s t) (a : Word) : isMemory t a = isMemory s a := by
  unfold isMemory; rw [resolve_core h]

/-- Memory reads the same after time and the outside world have moved. -/
theorem peek_core {s t : State} (h : SameCore s t) {a : Word} (hm : isMemory s a = true) : peek t a = peek s a := by
  unfold isMemory at hm
  unfold peek readByte
  rw [resolve_core h]
  split at hm <;> first | (cases hm; done) | (next e => simp only [e, h.2.1])

/-- A word in memory: what it holds, and nothing changes but by what comes between its bytes. -/
theorem readPair_memory {between : State → State} (hb : ∀ s, SameCore s (between s)) {s : State} {a : Word}
    (h : isMemory s a = true) (h' : isMemory s (a + 1) = true) : readPair between s a = (peekWord s a, between s) := by
  unfold readPair peekWord
  rw [readByte_memory h]
  simp only
  rw [readByte_memory (by rw [isMemory_core (hb s)]; exact h'), peek_core (hb s) h']

theorem readWord_memory {s : State} {a : Word} (h : isMemory s a = true) (h' : isMemory s (a + 1) = true) :
    readWord s a = (peekWord s a, beat s) := readPair_memory beat_core h h'

/-- The read of an operand changes nothing but what ReadFrame leaves open. -/
theorem operand8_frame (o : Src8) (s : State) : ReadFrame s (operand8 o s).2 := by
  cases o with
  | imm ii => exact ReadFrame.refl s
  | mem m => exact readByte_frame s _

theorem operand16_core (o : Src16) (s : State) : SameCore s (operand16 o s).2 := by
  cases o with
  | imm v => exact SameCore.refl s
  | mem m => exact readWord_core s _

/-! What addresses are depends on the system registers and the parameters alone. -/

theorem isMemory_congr {s t : State} (hs : t.io.sys = s.io.sys) (hp : t.params = s.params) (a : Word) :
    isMemory t a = isMemory s a := by unfold isMemory; rw [resolve_congr hs hp]

theorem isRegister_congr {s t : State} (hs : t.io.sys = s.io.sys) (hp : t.params = s.params) (a : Word) :
    isRegister t a = isRegister s a := by unfold isRegister; rw [resolve_congr hs hp]

theorem isRegister_core {s t : State} (h : SameCore s t) (a : Word) : isRegister t a = isRegister s a := by
  unfold isRegister; rw [resolve_core h]

theorem holdsStores_core {s t : State} (h : SameCore s t) (a : Word) : holdsStores t a = holdsStores s a := by
  unfold holdsStores; rw [resolve_core h]

theorem holdsStores_congr {s t : State} (hs : t.io.sys = s.io.sys) (hp : t.params = s.params) (a : Word) :
    holdsStores t a = holdsStores s a := by unfold holdsStores; rw [resolve_congr hs hp]

theorem isRegister_of_holdsStores {s : State} {a : Word} (h : holdsStores s a = true) : isRegister s a = false := by
  unfold holdsStores at h
  unfold isRegister
  split at h <;> first | (cases h; done) | (next e => simp [e])

theorem isMemory_of_holdsStores {s : State} {a : Word} (h : holdsStores s a = true) : isMemory s a = true := by
  unfold holdsStores at h
  unfold isMemory
  split at h <;> first | (cases h; done) | (next e => simp [e])

/-! Stores. -/

theorem writeTmsk2_cpu (v : Byte) (s : State) : (writeTmsk2 v s).cpu = s.cpu := rfl

/-- What a write of a register leaves alone. -/
structure WriteFrame (s t : State) : Prop where
  cpu : t.cpu = s.cpu
  mem : t.mem = s.mem
  pins : t.pins = s.pins
  params : t.params = s.params
  inputs : t.inputs = s.inputs

theorem WriteFrame.refl (s : State) : WriteFrame s s := ⟨rfl, rfl, rfl, rfl, rfl⟩

theorem driveOcPins_frame (w : OcTimes) (s : State) : WriteFrame s (driveOcPins w s) := ⟨rfl, rfl, rfl, rfl, rfl⟩

theorem writeRegister_frame (r : IoReg) (v : Byte) (s : State) : WriteFrame s (writeRegister r v s) := by
  cases r
  case portb => simp only [writeRegister, writePortB]; split <;> exact ⟨rfl, rfl, rfl, rfl, rfl⟩
  case portcl =>
    simp only [writeRegister, writePortCl]
    split
    · split <;> exact ⟨rfl, rfl, rfl, rfl, rfl⟩
    · exact ⟨rfl, rfl, rfl, rfl, rfl⟩
  case cforc =>
    simp only [writeRegister, writeCforc]
    split
    · exact WriteFrame.refl s
    · exact driveOcPins_frame _ s
  case eprog =>
    simp only [writeRegister, writeEprog]
    split <;> exact ⟨rfl, rfl, rfl, rfl, rfl⟩
  case coprst =>
    simp only [writeRegister, writeCoprst]
    split
    · exact ⟨rfl, rfl, rfl, rfl, rfl⟩
    · split <;> exact ⟨rfl, rfl, rfl, rfl, rfl⟩
  all_goals exact ⟨rfl, rfl, rfl, rfl, rfl⟩

/-- A store leaves the CPU, the pins, the parameters and the inputs alone. -/
theorem store_frame (s : State) (a : Word) (v : Byte) :
    (store s a v).cpu = s.cpu ∧ (store s a v).pins = s.pins ∧ (store s a v).params = s.params ∧
      (store s a v).inputs = s.inputs := by
  unfold store
  split
  · have h := writeRegister_frame (registerAt ‹_›) v s
    exact ⟨h.cpu, h.pins, h.params, h.inputs⟩
  all_goals exact ⟨rfl, rfl, rfl, rfl⟩

theorem store_cpu (s : State) (a : Word) (v : Byte) : (store s a v).cpu = s.cpu := (store_frame s a v).1

/-- A store outside the register block touches the contents of memory alone. -/
theorem store_outside {s : State} {a : Word} (h : isRegister s a = false) (v : Byte) : SameOutside s (store s a v) := by
  unfold isRegister at h
  unfold store
  split at h
  · cases h
  · next hne =>
    split
    · next e => exact absurd e (hne _)
    all_goals exact ⟨rfl, rfl, rfl, rfl, rfl⟩

/-- A store outside the register block is never refused (R431). -/
theorem storeRefusal_outside {s : State} {a : Word} (h : isRegister s a = false) (v : Byte) : storeRefusal s a v = none := by
  unfold isRegister at h
  unfold storeRefusal
  split at h
  · cases h
  · next hne =>
    split
    · next e => exact absurd e (hne _)
    all_goals rfl

theorem writeByte_outside {s : State} {a : Word} (h : isRegister s a = false) (v : Byte) :
    writeByte s a v = .next (store s a v) := by
  unfold writeByte
  rw [storeRefusal_outside h v]

theorem storeRefusal_core {s t : State} (h : SameCore s t) {a : Word} (hr : isRegister s a = false) (v : Byte) :
    storeRefusal t a v = none := storeRefusal_outside (by rw [isRegister_core h]; exact hr) v

/-- What a store does to the memories, by the resource that answers. -/
def storeMem (r : Region) (v : Byte) (m : Mem) : Mem :=
  match r with
  | .ram k => { m with ram := Memory.write m.ram k v }
  | .ext n .ram => { m with ext := Memory.write m.ext n v }
  | _ => m

/-- A store outside the register block is a store to the memories (R137, R144, R150). -/
theorem store_eq {s : State} {a : Word} (h : isRegister s a = false) (v : Byte) :
    store s a v = s.withCore s.cpu (storeMem (resolve s a) v s.mem) := by
  unfold isRegister at h
  unfold store
  cases hr : resolve s a with
  | register off => rw [hr] at h; cases h
  | ext n k => cases k <;> rfl
  | _ => rfl

/-- A byte write completes exactly where the store is not refused. -/
theorem writeByte_eq_next {s t : State} {a : Word} {v : Byte} :
    writeByte s a v = .next t ↔ storeRefusal s a v = none ∧ t = store s a v := by
  unfold writeByte
  cases storeRefusal s a v with
  | none => simp [eq_comm]
  | some r => simp

theorem peek_congr {s t : State} (hio : t.io = s.io) (hp : t.params = s.params) (hpins : t.pins = s.pins)
    (hd : t.draws = s.draws) (hcpu : t.cpu = s.cpu) (hin : t.inputs = s.inputs) (hm : t.mem = s.mem) (a : Word) :
    peek t a = peek s a := by
  cases s
  cases t
  simp only at hio hp hpins hd hcpu hin hm
  subst hio hp hpins hd hcpu hin hm
  rfl

/-- The byte a register read returns does not depend on the CPU, the memories or the inputs to come. -/
theorem readRegister_value {s t : State} (hio : t.io = s.io) (hp : t.params = s.params) (hpins : t.pins = s.pins)
    (hd : t.draws = s.draws) (r : IoReg) : (readRegister r t).1 = (readRegister r s).1 := by
  cases s with
  | mk cpu mem io pins params inputs draws =>
    cases t with
    | mk cpu' mem' io' pins' params' inputs' draws' =>
      simp only at hio hp hpins hd
      subst hio hp hpins hd
      cases r
      case portc => simp only [readRegister, readPortC, State.mda, portCLevels, portCOutputs]; split <;> rfl
      case portcl => simp only [readRegister, readPortCl]; split <;> rfl
      case eprog =>
        simp only [readRegister, visibleEprog, State.smod, freshByte]
        split <;> rfl
      case test1 =>
        by_cases h : bit io'.sys.hprio 6 = true <;> simp [readRegister, State.smod, freshByte, h]
      all_goals rfl

/-- What is read depends on the memories only where memory answers. -/
theorem peek_of_same {s t : State} (h : SameOutside s t) {a : Word} (hm : isMemory s a = false) : peek t a = peek s a := by
  obtain ⟨hio, hpins, hp, _, hd⟩ := h
  have hr := resolve_congr (s := s) (t := t) (by rw [hio]) hp a
  unfold isMemory at hm
  unfold peek readByte
  rw [hr]
  split at hm <;> first | (cases hm; done) | skip
  · next e => simp only [e, freshByte, hd]
  · next e => simp only [e]; exact readRegister_value hio hp hpins hd _
  · next e => simp only [e, freshByte, hd]

/-- A read after a store outside the register block: the byte stored, where the address holds stores, and nothing else
changes. -/
theorem peek_store {s : State} {a : Word} (h : isRegister s a = false) (v : Byte) (x : Word) :
    peek (store s a v) x = if x = a ∧ holdsStores s a = true then v else peek s x := by
  have hout := store_outside h v
  obtain ⟨hio, hpins, hp, hin, hd⟩ := hout
  have hr : ∀ y, resolve (store s a v) y = resolve s y := fun y => resolve_congr (by rw [hio]) hp y
  by_cases hx : isMemory s x = true
  · unfold peek readByte
    rw [hr x]
    unfold isMemory at hx
    unfold holdsStores
    unfold isRegister at h
    cases ha : resolve s a with
    | register off => rw [ha] at h; cases h
    | ram k =>
      have hk := (resolve_ram ha).1
      cases hxr : resolve s x with
      | ram k' =>
        have hk' := (resolve_ram hxr).1
        by_cases e : x = a
        · subst e
          rw [ha] at hxr
          injection hxr with e'
          subst e'
          simp [store, ha, Memory.read_write_same]
        · have : k' ≠ k := fun e' => e (BitVec.eq_of_toNat_eq (by rw [hk, hk', e']))
          simp [store, ha, e, Memory.read_write_other _ _ this]
      | ext n kd =>
        have e : x ≠ a := by intro e; rw [e, ha] at hxr; cases hxr
        cases kd <;> simp [store, ha, e, freshByte]
      | register off => rw [hxr] at hx; cases hx
      | nothing => rw [hxr] at hx; cases hx
      | bootRom n =>
        have e : x ≠ a := by intro e; rw [e, ha] at hxr; cases hxr
        simp [store, ha, e]
      | eeprom n =>
        have e : x ≠ a := by intro e; rw [e, ha] at hxr; cases hxr
        simp [store, ha, e]
      | rom n =>
        have e : x ≠ a := by intro e; rw [e, ha] at hxr; cases hxr
        simp [store, ha, e]
    | ext n kd =>
      have hn := resolve_ext ha
      cases kd with
      | ram =>
        cases hxr : resolve s x with
        | ext n' kd' =>
          have hn' := resolve_ext hxr
          by_cases e : x = a
          · subst e
            rw [ha] at hxr
            injection hxr with e' ek
            subst e' ek
            simp [store, ha, Memory.read_write_same]
          · have : n' ≠ n := fun e' => e (BitVec.eq_of_toNat_eq (by rw [← hn, ← hn', e']))
            cases kd' <;> simp [store, ha, e, Memory.read_write_other _ _ this, freshByte]
        | ram k =>
          have e : x ≠ a := by intro e; rw [e, ha] at hxr; cases hxr
          simp [store, ha, e]
        | register off => rw [hxr] at hx; cases hx
        | nothing => rw [hxr] at hx; cases hx
        | bootRom n =>
          have e : x ≠ a := by intro e; rw [e, ha] at hxr; cases hxr
          simp [store, ha, e]
        | eeprom n =>
          have e : x ≠ a := by intro e; rw [e, ha] at hxr; cases hxr
          simp [store, ha, e]
        | rom n =>
          have e : x ≠ a := by intro e; rw [e, ha] at hxr; cases hxr
          simp [store, ha, e]
      | rom => simp [store, ha]
      | device => simp [store, ha]
    | bootRom n => simp [store, ha]
    | eeprom n => simp [store, ha]
    | rom n => simp [store, ha]
    | nothing => simp [store, ha]
  · have hx' : isMemory s x = false := by simpa using hx
    rw [peek_of_same ⟨hio, hpins, hp, hin, hd⟩ hx']
    rw [if_neg]
    rintro ⟨e, hh⟩
    rw [e] at hx'
    rw [isMemory_of_holdsStores hh] at hx'
    cases hx'

/-- Storing keeps every memory canonical. -/
theorem store_mem_wf {s : State} (h : s.mem.wf = true) (a : Word) (v : Byte) : (store s a v).mem.wf = true := by
  unfold store
  split
  · rw [(writeRegister_frame _ _ _).mem]; exact h
  · simp only [Mem.wf, Bool.and_eq_true, State.setMem_mem] at h ⊢
    exact ⟨⟨⟨⟨Memory.write_wf _ _ h.1.1.1.1, h.1.1.1.2⟩, h.1.1.2⟩, h.1.2⟩, h.2⟩
  · exact h
  · exact h
  · exact h
  · simp only [Mem.wf, Bool.and_eq_true, State.setMem_mem] at h ⊢
    exact ⟨h.1, Memory.write_wf _ _ h.2⟩
  all_goals exact h

end Sys2Proof.Machine
end

