-- ==== Sys2Proof/Laws/Stack.lean ====
section
/-! SUPPORT. Lists of stores with their beats, pushes and pulls: what each leaves behind. -/

namespace Sys2Proof.Machine

/-! Addresses below SP. -/

theorem word_sub_sub (x a b : Word) : x - a - b = x - (a + b) := by bv_omega

theorem word_sub_eq (x a b : Word) : x - a = x - b ↔ a = b := by
  constructor
  · intro h; bv_omega
  · rintro rfl; rfl

theorem word_eq_sub (x b : Word) : x = x - b ↔ b = 0 := by
  constructor
  · intro h; bv_omega
  · rintro rfl; bv_omega

theorem word_sub_eq_self (x b : Word) : x - b = x ↔ b = 0 := by
  constructor
  · intro h; bv_omega
  · rintro rfl; bv_omega

/-! What is read after an update of the CPU. -/

/-- What is read depends on the memories, the register block, the pins, the parameters and the free values alone. -/
theorem peek_of_mem {s t : State} (h : SameOutside s t) (hm : t.mem = s.mem) (x : Word) : peek t x = peek s x := by
  by_cases hx : isMemory s x = true
  · have hr := resolve_congr (s := s) (t := t) (by rw [h.1]) h.2.2.1 x
    unfold peek readByte
    rw [hr]
    unfold isMemory at hx
    split at hx <;> first | (cases hx; done) | (next e => simp only [e, hm])
  · exact peek_of_same h (by simpa using hx)

theorem peek_setSp (s : State) (v : Word) (x : Word) : peek (s.setSp v) x = peek s x :=
  peek_of_mem (s := s) (t := s.setSp v) ⟨rfl, rfl, rfl, rfl, rfl⟩ rfl x

theorem peek_setPc (s : State) (v : Word) (x : Word) : peek (s.setPc v) x = peek s x :=
  peek_of_mem (s := s) (t := s.setPc v) ⟨rfl, rfl, rfl, rfl, rfl⟩ rfl x

theorem peek_masked (s : State) (c : Ccr) (r : RunState) (x : Word) : peek ((s.setCcr c).setRun r) x = peek s x :=
  peek_of_mem (s := s) (t := (s.setCcr c).setRun r) ⟨rfl, rfl, rfl, rfl, rfl⟩ rfl x

theorem SameOutside.trans {s t u : State} (h : SameOutside s t) (k : SameOutside t u) : SameOutside s u :=
  ⟨k.1.trans h.1, k.2.1.trans h.2.1, k.2.2.1.trans h.2.2.1, k.2.2.2.1.trans h.2.2.2.1, k.2.2.2.2.trans h.2.2.2.2⟩

/-! Lists of stores. -/

/-- The outcome of storing a list is decided by the stores and their beats: it is `storeAll` where the stores that are
reached are accepted. -/
theorem writeAll_accepted (l : List (Word × Byte)) : ∀ s : State, accepted s l = true → writeAll l s = .next (storeAll s l) := by
  induction l with
  | nil => intro s _; rfl
  | cons p l ih =>
    intro s h
    obtain ⟨a, v⟩ := p
    cases l with
    | nil =>
      simp only [accepted, Option.isNone_iff_eq_none] at h
      simp only [writeAll, writeByte, h, storeAll]
    | cons q l =>
      simp only [accepted, Bool.and_eq_true, Bool.or_eq_true, Option.isNone_iff_eq_none] at h
      simp only [writeAll, andThenBeat, writeByte, h.1, andThen_next, storeAll]
      split
      · rfl
      · next hd => exact ih _ (h.2.resolve_left hd)

/-- And a refusal where one of them is refused. -/
theorem writeAll_not_accepted (l : List (Word × Byte)) : ∀ s : State, accepted s l = false → ∃ r, writeAll l s = .refused r := by
  induction l with
  | nil => intro s h; cases h
  | cons p l ih =>
    intro s h
    obtain ⟨a, v⟩ := p
    cases hr : storeRefusal s a v with
    | some r =>
      refine ⟨r, ?_⟩
      cases l <;> simp only [writeAll, andThenBeat, writeByte, hr] <;> rfl
    | none =>
      cases l with
      | nil => simp only [accepted, hr] at h; cases h
      | cons q l =>
        simp only [accepted, hr, Option.isNone_none, Bool.true_and, Bool.or_eq_false_iff] at h
        simp only [writeAll, andThenBeat, writeByte, hr, andThen_next, h.1, Bool.false_eq_true, if_false]
        exact ih _ h.2

theorem storeAll_cpu (l : List (Word × Byte)) : ∀ s : State, (storeAll s l).cpu = s.cpu := by
  induction l with
  | nil => intro s; rfl
  | cons p l ih =>
    intro s
    obtain ⟨a, v⟩ := p
    have hb : (beat (store s a v)).cpu = s.cpu := (beat_core _).1.trans (store_cpu s a v)
    cases l with
    | nil => exact store_cpu s a v
    | cons q l =>
      simp only [storeAll]
      split
      · exact hb
      · exact (ih _).trans hb

/-- A beat after a store outside the register block: the beat, with the byte stored. -/
theorem beat_store {s : State} {a : Word} (h : isRegister s a = false) (v : Byte) :
    beat (store s a v) = (beat s).withCore s.cpu (storeMem (resolve s a) v s.mem) := by
  rw [store_eq h, beat_withCore s _ rfl]

/-- Outside the register block a list of stores is what its beats do, with other memories. -/
theorem storeAll_outside (l : List (Word × Byte)) : ∀ s : State, (∀ p ∈ l, isRegister s p.1 = false) →
    ∃ m, storeAll s l = (beats (l.length - 1) s).withCore s.cpu m := by
  induction l with
  | nil => intro s _; exact ⟨s.mem, rfl⟩
  | cons p l ih =>
    intro s h
    obtain ⟨a, v⟩ := p
    have ha := h (a, v) (by simp)
    cases l with
    | nil => exact ⟨_, store_eq ha v⟩
    | cons q l =>
      have hb := beat_store ha v
      have hcore := beat_core s
      simp only [storeAll]
      rw [hb]
      split
      · next hd =>
        refine ⟨storeMem (resolve s a) v s.mem, ?_⟩
        show _ = (beats (l.length) (beat s)).withCore _ _
        rw [beats_due l.length (s := beat s) hd]
      · obtain ⟨m, hm⟩ := ih ((beat s).withCore s.cpu (storeMem (resolve s a) v s.mem)) (fun p hp => by
          rw [← h p (by simp [hp])]
          exact isRegister_core (s := s) (t := (beat s).withCore s.cpu s.mem) (by rw [State.withCore_self hcore]; exact hcore) p.1)
        refine ⟨m, ?_⟩
        rw [hm, beats_withCore ((q :: l).length - 1) (beat s) (c := s.cpu) _ (by rw [hcore.1])]
        rfl

/-! Pushes. -/

/-- `push8` as the stores it is made of. -/
theorem pushAll_eq (l : List Byte) (s : State) :
    pushAll l s = andThen (writeAll (stackCells s.cpu.sp l) s) fun t =>
      .next (t.withCpu { s.cpu with sp := s.cpu.sp - BitVec.ofNat 16 l.length }) := by
  unfold pushAll
  cases h : accepted s (stackCells s.cpu.sp l) with
  | true =>
    rw [writeAll_accepted _ _ h]
    simp only [andThen_next, State.setSp, State.withCpu, storeAll_cpu]
  | false =>
    obtain ⟨r, hr⟩ := writeAll_not_accepted _ _ h
    rw [hr]
    rfl

/-- The frame of an exception entry, in the order it is pushed (R440). -/
theorem stackCells_frame (c : Cpu) (rtn : Word) :
    stackCells c.sp [lo rtn, hi rtn, lo c.iy, hi c.iy, lo c.ix, hi c.ix, c.a, c.b, c.ccr.toByte] = frameBytes c rtn := by
  simp only [stackCells, frameBytes, word_sub_sub]
  rfl

/-- Stacking the frame is storing its nine bytes. -/
theorem pushFrame_eq (rtn : Word) (s : State) :
    pushFrame rtn s = andThen (writeAll (frameBytes s.cpu rtn) s) fun t =>
      .next (t.withCpu { s.cpu with sp := s.cpu.sp - 9 }) := by
  unfold pushFrame
  rw [pushAll_eq, stackCells_frame]
  rfl

/-! Pulls. -/

/-- A pull from memory: SP is one higher and the byte there is read, nothing else changing (R134). -/
theorem pull8_memory {s : State} (h : isMemory s (s.cpu.sp + 1) = true) :
    pull8 s = (peek s (s.cpu.sp + 1), s.setSp (s.cpu.sp + 1)) := by
  unfold pull8
  rw [readByte_memory (by exact h), peek_setSp]

/-- A beat after SP has moved: the same beat. -/
theorem beat_setSp (s : State) (v : Word) : beat (s.setSp v) = (beat s).setSp v := by
  have h := beat_withCpu s (c := { s.cpu with sp := v }) rfl
  have e : (beat s).setSp v = (beat s).withCpu { s.cpu with sp := v } := by
    unfold State.setSp State.withCpu
    rw [(beat_core s).1]
  rw [e, ← h]
  rfl

/-- A 16-bit pull from memory: the word there, SP two higher, and a beat between the bytes (R134). -/
theorem pull16_memory {s : State} (h : isMemory s (s.cpu.sp + 1) = true) (h' : isMemory s (s.cpu.sp + 2) = true) :
    pull16 s = (peekWord s (s.cpu.sp + 1), (beat s).setSp (s.cpu.sp + 2)) := by
  have e : s.cpu.sp + 1 + 1 = s.cpu.sp + 2 := by bv_omega
  have hc := beat_core s
  unfold pull16 peekWord
  rw [pull8_memory h]
  simp only
  rw [beat_setSp, pull8_memory (s := (beat s).setSp (s.cpu.sp + 1)) (by
    show isMemory ((beat s).setSp _) (s.cpu.sp + 1 + 1) = true
    rw [isMemory_congr (s := beat s) (t := (beat s).setSp (s.cpu.sp + 1)) rfl rfl, isMemory_core hc, e]; exact h')]
  simp only [State.setSp_sp, State.setSp_setSp, peek_setSp, e]
  rw [peek_core hc h']

end Sys2Proof.Machine
end

