-- ==== Sys2Proof/Laws/Forms.lean ====
section
/-! SUPPORT. What the operand forms, lists of stores and lists of reads do, in the terms of Safety.lean: the lemmas the
statements about instructions rest on. -/

namespace Sys2Proof.Machine

/-! Operands. -/

theorem afterRead_of_frame {s t : State} (h : ReadFrame s t) : AfterRead s t := by
  obtain ⟨hcpu, hmem, hpins, hparams, hinputs, htimer, hadc, hsys⟩ := h
  obtain ⟨cpu, mem, ⟨ports, timer, spi, sci, adc, sys⟩, pins, params, inputs, draws⟩ := s
  obtain ⟨cpu', mem', ⟨ports', timer', spi', sci', adc', sys'⟩, pins', params', inputs', draws'⟩ := t
  simp only at hcpu hmem hpins hparams hinputs htimer hadc hsys
  subst hcpu hmem hpins hparams hinputs htimer hadc hsys
  rfl

/-- The model's operand read is the read the statements speak of. -/
theorem reads8 (o : Src8) (s : State) : Reads8 o s (operand8 o s).1 (operand8 o s).2 := by
  cases o with
  | imm ii => exact ⟨rfl, rfl⟩
  | mem m =>
    refine ⟨rfl, rfl, afterRead_of_frame (readByte_frame s _), fun h => ?_⟩
    show (readByte s (effectiveAddress m s)).2 = s
    rw [readByte_memory h]

theorem reads16 (o : Src16) (s : State) : Reads16 o s (operand16 o s).1 (operand16 o s).2 := by
  cases o with
  | imm v => exact ⟨rfl, rfl⟩
  | mem m =>
    refine ⟨rfl, rfl, afterRead_of_frame (readByte_frame s _), (readByte_core s _).trans (beat_core _),
      afterRead_of_frame (readByte_frame _ _), fun h h' => ?_⟩
    have e := readWord_memory h h'
    exact ⟨congrArg Prod.fst e, congrArg Prod.snd e⟩

theorem operand8_cpu (o : Src8) (s : State) : (operand8 o s).2.cpu = s.cpu := (operand8_frame o s).cpu

theorem operand16_cpu (o : Src16) (s : State) : (operand16 o s).2.cpu = s.cpu := (operand16_core o s).1

theorem readByte_cpu (s : State) (a : Word) : (readByte s a).2.cpu = s.cpu := (readByte_frame s a).cpu

/-! A read does not look at the CPU. -/

theorem readRegister_withCpu (r : IoReg) (s : State) (c : Cpu) :
    readRegister r (s.withCpu c) = ((readRegister r s).1, (readRegister r s).2.withCpu c) := by
  cases r
  case portc => by_cases hc : s.mda = true <;> simp [readRegister, readPortC, State.withCpu, State.mda] at hc ⊢ <;> simp [hc] <;> rfl
  case pioc => by_cases hc : bit s.io.ports.pioc 7 = true <;> simp [readRegister, readPioc, State.withCpu, hc, State.setPorts]
  case portcl =>
    by_cases hc : outputHandshake s.io.ports.pioc = true
    · simp [readRegister, readPortCl, State.withCpu, hc]
    · by_cases hd : (!bit s.io.sys.hprio 5 && bit s.io.ports.pioc 4) = true <;>
        simp [readRegister, readPortCl, State.withCpu, State.handshakeOn, State.mda, State.setPorts, hc, hd]
  case eprog =>
    by_cases hc : s.params.device = .mc68hc711e20 <;>
      simp [readRegister, visibleEprog, State.smod, freshByte, State.withCpu, State.drawn, hc] <;> rfl
  case test1 =>
    by_cases hc : bit s.io.sys.hprio 6 = true <;>
      simp [readRegister, State.smod, freshByte, State.withCpu, State.drawn, hc]
  all_goals rfl

/-- The same with the CPU named as a structure update. -/
theorem readByte_withCpu (s : State) (c : Cpu) (a : Word) :
    readByte (s.withCpu c) a = ((readByte s a).1, (readByte s a).2.withCpu c) := by
  unfold readByte
  rw [resolve_congr (s := s) (t := s.withCpu c) rfl rfl]
  split
  · exact readRegister_withCpu _ s c
  all_goals rfl

theorem withCpu_self {s t : State} (h : t.cpu = s.cpu) : t.withCpu s.cpu = t := by
  cases t
  simp only at h
  subst h
  rfl

/-! A store looks at no CPU register but CCR. -/

theorem store_withCpu (s : State) (c : Cpu) (a : Word) (v : Byte) (h : c.ccr = s.cpu.ccr) :
    store (s.withCpu c) a v = (store s a v).withCpu c := by
  unfold store
  rw [resolve_congr (s := s) (t := s.withCpu c) rfl rfl]
  split
  · cases registerAt ‹_›
    case portb =>
      by_cases hc : (!bit s.io.sys.hprio 5 && !bit s.io.ports.pioc 4) = true <;>
        simp [writeRegister, writePortB, State.handshakeOn, State.mda, State.withCpu, State.setPorts, hc]
    case portcl =>
      by_cases hc : outputHandshake s.io.ports.pioc = true
      · by_cases hd : bit s.io.sys.hprio 5 = true <;>
          simp [writeRegister, writePortCl, State.handshakeOn, State.mda, State.withCpu, State.setPorts, hc, hd]
      · simp [writeRegister, writePortCl, State.withCpu, State.setPorts, hc]
    case cforc =>
      by_cases hc : v &&& 0xF8 = 0
      · simp only [writeRegister, writeCforc, if_pos hc]
      · simp only [writeRegister, writeCforc, if_neg hc]
        rfl
    case eprog =>
      by_cases hc : s.params.device = .mc68hc711e20 <;>
        simp [writeRegister, writeEprog, State.smod, State.withCpu, State.setSys, hc] <;> rfl
    case coprst =>
      by_cases hc : v = 0x55
      · simp only [writeRegister, writeCoprst, if_pos hc]
        rfl
      · by_cases hd : v = 0xAA ∧ s.io.sys.copArmed = true
        · have hd' : v = 0xAA ∧ (s.withCpu c).io.sys.copArmed = true := hd
          simp only [writeRegister, writeCoprst, if_neg hc, if_pos hd, if_pos hd']
          rfl
        · have hd' : ¬(v = 0xAA ∧ (s.withCpu c).io.sys.copArmed = true) := hd
          simp only [writeRegister, writeCoprst, if_neg hc, if_neg hd, if_neg hd']
    case hprio =>
      simp only [writeRegister, writeHprio, State.withCpu, State.smod, State.setSys, h]
      rfl
    all_goals rfl
  all_goals rfl

theorem storeRefusal_withCpu (s : State) (c : Cpu) (a : Word) (v : Byte) :
    storeRefusal (s.withCpu c) a v = storeRefusal s a v := by
  unfold storeRefusal
  rw [resolve_congr (s := s) (t := s.withCpu c) rfl rfl]
  rfl

/-! Lists of stores. -/

theorem withCpu_ccr {s : State} {c : Cpu} {a : Word} {v : Byte} (h : c.ccr = s.cpu.ccr) (hr : c.run = s.cpu.run) :
    beat (store (s.withCpu c) a v) = (beat (store s a v)).withCpu c ∧
      c.ccr = (beat (store s a v)).cpu.ccr ∧ c.run = (beat (store s a v)).cpu.run := by
  have e := (beat_core (store s a v)).1.trans (store_cpu s a v)
  refine ⟨?_, by rw [e]; exact h, by rw [e]; exact hr⟩
  rw [store_withCpu s c a v h, beat_withCpu _ (by rw [store_cpu]; exact hr)]

/-- A list of stores does not look at the CPU but for CCR and the run state. -/
theorem storeAll_withCpu (l : List (Word × Byte)) : ∀ (s : State) (c : Cpu), c.ccr = s.cpu.ccr → c.run = s.cpu.run →
    storeAll (s.withCpu c) l = (storeAll s l).withCpu c := by
  induction l with
  | nil => intro s c _ _; rfl
  | cons p l ih =>
    intro s c h hr
    obtain ⟨a, v⟩ := p
    cases l with
    | nil => exact store_withCpu s c a v h
    | cons q l =>
      obtain ⟨e, h', hr'⟩ := withCpu_ccr (a := a) (v := v) h hr
      simp only [storeAll]
      rw [e, ih _ c h' hr', show ((beat (store s a v)).withCpu c).resetDue = (beat (store s a v)).resetDue from rfl]
      split <;> rfl

theorem accepted_withCpu (l : List (Word × Byte)) : ∀ (s : State) (c : Cpu), c.ccr = s.cpu.ccr → c.run = s.cpu.run →
    accepted (s.withCpu c) l = accepted s l := by
  induction l with
  | nil => intro s c _ _; rfl
  | cons p l ih =>
    intro s c h hr
    obtain ⟨a, v⟩ := p
    cases l with
    | nil =>
      simp only [accepted]
      rw [storeRefusal_withCpu]
    | cons q l =>
      obtain ⟨e, h', hr'⟩ := withCpu_ccr (a := a) (v := v) h hr
      simp only [accepted]
      rw [storeRefusal_withCpu, e, ih _ c h' hr']
      rfl

/-- An outcome that writes the bytes of `l` and then sets the CPU is a StoresThen, given the frame of `storeAll`. -/
theorem storesThen_of_writeAll {u : State} {l : List (Word × Byte)} {c : Cpu} {o : Result}
    (ho : o = andThen (writeAll l u) fun t => .next (t.withCpu c)) (hs : Stores u l (storeAll u l)) : StoresThen o u l c := by
  constructor
  · intro h
    refine ⟨storeAll u l, hs, ?_⟩
    rw [ho, writeAll_accepted l u h]
    rfl
  · intro h
    obtain ⟨r, hr⟩ := writeAll_not_accepted l u h
    exact ⟨r, by rw [ho, hr]; rfl⟩

/-! Lists of reads. -/

theorem readAll_withCpu (as : List Word) : ∀ (s : State) (c : Cpu), c.run = s.cpu.run →
    readAll (s.withCpu c) as = ((readAll s as).1, (readAll s as).2.withCpu c) := by
  induction as with
  | nil => intro s c _; rfl
  | cons a as ih =>
    intro s c h
    cases as with
    | nil =>
      simp only [readAll]
      rw [readByte_withCpu]
    | cons b as =>
      have hc := (readByte_core s a).trans (beat_core _)
      simp only [readAll]
      rw [readByte_withCpu]
      simp only
      rw [beat_withCpu _ (by rw [readByte_cpu]; exact h), ih _ c (by rw [hc.1]; exact h)]

/-- A list of reads leaves the CPU, the memories and the map alone. -/
theorem readAll_core (as : List Word) : ∀ s : State, SameCore s (readAll s as).2 := by
  induction as with
  | nil => intro s; exact SameCore.refl s
  | cons a as ih =>
    intro s
    cases as with
    | nil => exact readByte_core s a
    | cons b as => exact ((readByte_core s a).trans (beat_core _)).trans (ih _)

/-- Reads of memory: the bytes there, and nothing changes but by the beats. -/
theorem readAll_memory (as : List Word) : ∀ s : State, (∀ a ∈ as, isMemory s a = true) →
    readAll s as = (as.map (peek s), beats (as.length - 1) s) := by
  induction as with
  | nil => intro s _; rfl
  | cons a as ih =>
    intro s h
    cases as with
    | nil => simp only [readAll, readByte_memory (h a (by simp))]; rfl
    | cons b as =>
      have hc := beat_core s
      simp only [readAll]
      rw [readByte_memory (h a (by simp))]
      simp only
      rw [ih (beat s) fun x hx => (isMemory_core hc x).trans (h x (by simp [hx]))]
      refine Prod.ext_iff.mpr ⟨?_, rfl⟩
      show peek s a :: (b :: as).map (peek (beat s)) = peek s a :: (b :: as).map (peek s)
      refine congrArg _ (List.map_congr_left fun x hx => peek_core hc (h x (by simp [hx])))

/-- A list of reads begins with its first two. -/
theorem readAll_two (s : State) (a b c : Word) (as : List Word) :
    readAll s (a :: b :: c :: as) =
      ((readAll s [a, b]).1.getD 0 0 :: (readAll s [a, b]).1.getD 1 0 :: (readAll (beat (readAll s [a, b]).2) (c :: as)).1,
        (readAll (beat (readAll s [a, b]).2) (c :: as)).2) := rfl

/-! Pulls, as lists of reads. -/

/-- A pull, wherever SP points: one read above it, and SP is there (R134). -/
theorem pull8_withCpu (s : State) (c : Cpu) :
    pull8 (s.withCpu c) = ((readByte s (c.sp + 1)).1, (readByte s (c.sp + 1)).2.withCpu { c with sp := c.sp + 1 }) := by
  unfold pull8
  show readByte (s.withCpu { c with sp := c.sp + 1 }) (c.sp + 1) = _
  rw [readByte_withCpu]

/-- A 16-bit pull, wherever SP points: the two reads above it, the first the high byte (R134). -/
theorem pull16_withCpu (s : State) (c : Cpu) (hr : c.run = s.cpu.run) :
    pull16 (s.withCpu c) =
      (join ((readAll s [c.sp + 1, c.sp + 2]).1.getD 0 0) ((readAll s [c.sp + 1, c.sp + 2]).1.getD 1 0),
        (readAll s [c.sp + 1, c.sp + 2]).2.withCpu { c with sp := c.sp + 2 }) := by
  have e : c.sp + 1 + 1 = c.sp + 2 := by bv_omega
  unfold pull16
  rw [pull8_withCpu]
  simp only
  rw [beat_withCpu _ (by rw [readByte_cpu]; exact hr), pull8_withCpu]
  simp only [e]
  rfl

end Sys2Proof.Machine
end

