-- ==== Sys2Proof/Laws/PerInstr.lean ====
section
/-! SUPPORT. The per-instruction family EncodedLength: one lemma for each constructor of Instr. -/

namespace Sys2Proof.Laws.EncodedLength

/-- An instruction of Table 1 has one to five bytes (R170). -/
def Statement (i : Instr) : Prop := i.wellFormed = true → 1 ≤ (encode i).length ∧ (encode i).length ≤ 5

/-! The formats. -/

theorem mem_length (p px py : List Byte) (op : Byte) (m : Ea) (hp : p.length ≤ 1) (hx : px.length ≤ 1) (hy : py.length ≤ 1) :
    1 ≤ (encodeMem p px py op m).length ∧ (encodeMem p px py op m).length ≤ 5 := by
  cases m <;> simp [encodeMem] <;> omega

theorem encode8_length (op : Byte) (o : Src8) : 1 ≤ (encode8 op o).length ∧ (encode8 op o).length ≤ 5 := by
  cases o with
  | imm ii => simp [encode8]
  | mem m => exact mem_length _ _ _ _ m (by simp) (by simp) (by simp)

theorem encode16_length (p px py : List Byte) (op : Byte) (o : Src16) (hp : p.length ≤ 1) (hx : px.length ≤ 1)
    (hy : py.length ≤ 1) : 1 ≤ (encode16 p px py op o).length ∧ (encode16 p px py op o).length ≤ 5 := by
  cases o with
  | imm v => simp [encode16]; omega
  | mem m => exact mem_length _ _ _ _ m hp hx hy

theorem rmw_length (op : Byte) (m : Ea) (h : m.notDir = true) :
    1 ≤ (encodeRmw op m).length ∧ (encodeRmw op m).length ≤ 5 := by
  cases m <;> first | (simp [Ea.notDir] at h; done) | simp [encodeRmw]

theorem bit_length (d x : Byte) (tail : List Byte) (m : Ea) (h : m.notExt = true) (ht : tail.length ≤ 2) :
    1 ≤ (encodeBit d x tail m).length ∧ (encodeBit d x tail m).length ≤ 5 := by
  cases m <;> first | (simp [Ea.notExt] at h; done) | (simp [encodeBit]; omega)

/-! The instructions. -/

theorem clr (m : Ea) : Statement (.clr m) := fun h => rmw_length _ m h
theorem clra : Statement (.clra) := fun _ => ⟨by decide, by decide⟩
theorem clrb : Statement (.clrb) := fun _ => ⟨by decide, by decide⟩
theorem ldaa (o : Src8) : Statement (.ldaa o) := fun _ => encode8_length _ o
theorem ldab (o : Src8) : Statement (.ldab o) := fun _ => encode8_length _ o
theorem ldd (o : Src16) : Statement (.ldd o) := fun _ => encode16_length _ _ _ _ o (by simp) (by simp) (by simp)
theorem lds (o : Src16) : Statement (.lds o) := fun _ => encode16_length _ _ _ _ o (by simp) (by simp) (by simp)
theorem ldx (o : Src16) : Statement (.ldx o) := fun _ => encode16_length _ _ _ _ o (by simp) (by simp) (by simp)
theorem ldy (o : Src16) : Statement (.ldy o) := fun _ => encode16_length _ _ _ _ o (by simp) (by simp) (by simp)
theorem psha : Statement (.psha) := fun _ => ⟨by decide, by decide⟩
theorem pshb : Statement (.pshb) := fun _ => ⟨by decide, by decide⟩
theorem pshx : Statement (.pshx) := fun _ => ⟨by decide, by decide⟩
theorem pshy : Statement (.pshy) := fun _ => ⟨by decide, by decide⟩
theorem pula : Statement (.pula) := fun _ => ⟨by decide, by decide⟩
theorem pulb : Statement (.pulb) := fun _ => ⟨by decide, by decide⟩
theorem pulx : Statement (.pulx) := fun _ => ⟨by decide, by decide⟩
theorem puly : Statement (.puly) := fun _ => ⟨by decide, by decide⟩
theorem staa (m : Ea) : Statement (.staa m) := fun _ => mem_length _ _ _ _ m (by simp) (by simp) (by simp)
theorem stab (m : Ea) : Statement (.stab m) := fun _ => mem_length _ _ _ _ m (by simp) (by simp) (by simp)
theorem std (m : Ea) : Statement (.std m) := fun _ => mem_length _ _ _ _ m (by simp) (by simp) (by simp)
theorem sts (m : Ea) : Statement (.sts m) := fun _ => mem_length _ _ _ _ m (by simp) (by simp) (by simp)
theorem stx (m : Ea) : Statement (.stx m) := fun _ => mem_length _ _ _ _ m (by simp) (by simp) (by simp)
theorem sty (m : Ea) : Statement (.sty m) := fun _ => mem_length _ _ _ _ m (by simp) (by simp) (by simp)
theorem tab : Statement (.tab) := fun _ => ⟨by decide, by decide⟩
theorem tap : Statement (.tap) := fun _ => ⟨by decide, by decide⟩
theorem tba : Statement (.tba) := fun _ => ⟨by decide, by decide⟩
theorem tpa : Statement (.tpa) := fun _ => ⟨by decide, by decide⟩
theorem tsx : Statement (.tsx) := fun _ => ⟨by decide, by decide⟩
theorem tsy : Statement (.tsy) := fun _ => ⟨by decide, by decide⟩
theorem txs : Statement (.txs) := fun _ => ⟨by decide, by decide⟩
theorem tys : Statement (.tys) := fun _ => ⟨by decide, by decide⟩
theorem xgdx : Statement (.xgdx) := fun _ => ⟨by decide, by decide⟩
theorem xgdy : Statement (.xgdy) := fun _ => ⟨by decide, by decide⟩
theorem aba : Statement (.aba) := fun _ => ⟨by decide, by decide⟩
theorem abx : Statement (.abx) := fun _ => ⟨by decide, by decide⟩
theorem aby : Statement (.aby) := fun _ => ⟨by decide, by decide⟩
theorem adca (o : Src8) : Statement (.adca o) := fun _ => encode8_length _ o
theorem adcb (o : Src8) : Statement (.adcb o) := fun _ => encode8_length _ o
theorem adda (o : Src8) : Statement (.adda o) := fun _ => encode8_length _ o
theorem addb (o : Src8) : Statement (.addb o) := fun _ => encode8_length _ o
theorem addd (o : Src16) : Statement (.addd o) := fun _ => encode16_length _ _ _ _ o (by simp) (by simp) (by simp)
theorem cba : Statement (.cba) := fun _ => ⟨by decide, by decide⟩
theorem cmpa (o : Src8) : Statement (.cmpa o) := fun _ => encode8_length _ o
theorem cmpb (o : Src8) : Statement (.cmpb o) := fun _ => encode8_length _ o
theorem cpd (o : Src16) : Statement (.cpd o) := fun _ => encode16_length _ _ _ _ o (by simp) (by simp) (by simp)
theorem cpx (o : Src16) : Statement (.cpx o) := fun _ => encode16_length _ _ _ _ o (by simp) (by simp) (by simp)
theorem cpy (o : Src16) : Statement (.cpy o) := fun _ => encode16_length _ _ _ _ o (by simp) (by simp) (by simp)
theorem daa : Statement (.daa) := fun _ => ⟨by decide, by decide⟩
theorem dec (m : Ea) : Statement (.dec m) := fun h => rmw_length _ m h
theorem deca : Statement (.deca) := fun _ => ⟨by decide, by decide⟩
theorem decb : Statement (.decb) := fun _ => ⟨by decide, by decide⟩
theorem des : Statement (.des) := fun _ => ⟨by decide, by decide⟩
theorem dex : Statement (.dex) := fun _ => ⟨by decide, by decide⟩
theorem dey : Statement (.dey) := fun _ => ⟨by decide, by decide⟩
theorem fdiv : Statement (.fdiv) := fun _ => ⟨by decide, by decide⟩
theorem idiv : Statement (.idiv) := fun _ => ⟨by decide, by decide⟩
theorem inc (m : Ea) : Statement (.inc m) := fun h => rmw_length _ m h
theorem inca : Statement (.inca) := fun _ => ⟨by decide, by decide⟩
theorem incb : Statement (.incb) := fun _ => ⟨by decide, by decide⟩
theorem ins : Statement (.ins) := fun _ => ⟨by decide, by decide⟩
theorem inx : Statement (.inx) := fun _ => ⟨by decide, by decide⟩
theorem iny : Statement (.iny) := fun _ => ⟨by decide, by decide⟩
theorem mul : Statement (.mul) := fun _ => ⟨by decide, by decide⟩
theorem neg (m : Ea) : Statement (.neg m) := fun h => rmw_length _ m h
theorem nega : Statement (.nega) := fun _ => ⟨by decide, by decide⟩
theorem negb : Statement (.negb) := fun _ => ⟨by decide, by decide⟩
theorem sba : Statement (.sba) := fun _ => ⟨by decide, by decide⟩
theorem sbca (o : Src8) : Statement (.sbca o) := fun _ => encode8_length _ o
theorem sbcb (o : Src8) : Statement (.sbcb o) := fun _ => encode8_length _ o
theorem suba (o : Src8) : Statement (.suba o) := fun _ => encode8_length _ o
theorem subb (o : Src8) : Statement (.subb o) := fun _ => encode8_length _ o
theorem subd (o : Src16) : Statement (.subd o) := fun _ => encode16_length _ _ _ _ o (by simp) (by simp) (by simp)
theorem tst (m : Ea) : Statement (.tst m) := fun h => rmw_length _ m h
theorem tsta : Statement (.tsta) := fun _ => ⟨by decide, by decide⟩
theorem tstb : Statement (.tstb) := fun _ => ⟨by decide, by decide⟩
theorem anda (o : Src8) : Statement (.anda o) := fun _ => encode8_length _ o
theorem andb (o : Src8) : Statement (.andb o) := fun _ => encode8_length _ o
theorem asl (m : Ea) : Statement (.asl m) := fun h => rmw_length _ m h
theorem asla : Statement (.asla) := fun _ => ⟨by decide, by decide⟩
theorem aslb : Statement (.aslb) := fun _ => ⟨by decide, by decide⟩
theorem asld : Statement (.asld) := fun _ => ⟨by decide, by decide⟩
theorem asr (m : Ea) : Statement (.asr m) := fun h => rmw_length _ m h
theorem asra : Statement (.asra) := fun _ => ⟨by decide, by decide⟩
theorem asrb : Statement (.asrb) := fun _ => ⟨by decide, by decide⟩
theorem bclr (m : Ea) (mm : Byte) : Statement (.bclr m mm) := fun h => bit_length _ _ _ m h (by simp)
theorem bita (o : Src8) : Statement (.bita o) := fun _ => encode8_length _ o
theorem bitb (o : Src8) : Statement (.bitb o) := fun _ => encode8_length _ o
theorem bset (m : Ea) (mm : Byte) : Statement (.bset m mm) := fun h => bit_length _ _ _ m h (by simp)
theorem com (m : Ea) : Statement (.com m) := fun h => rmw_length _ m h
theorem coma : Statement (.coma) := fun _ => ⟨by decide, by decide⟩
theorem comb : Statement (.comb) := fun _ => ⟨by decide, by decide⟩
theorem eora (o : Src8) : Statement (.eora o) := fun _ => encode8_length _ o
theorem eorb (o : Src8) : Statement (.eorb o) := fun _ => encode8_length _ o
theorem lsr (m : Ea) : Statement (.lsr m) := fun h => rmw_length _ m h
theorem lsra : Statement (.lsra) := fun _ => ⟨by decide, by decide⟩
theorem lsrb : Statement (.lsrb) := fun _ => ⟨by decide, by decide⟩
theorem lsrd : Statement (.lsrd) := fun _ => ⟨by decide, by decide⟩
theorem oraa (o : Src8) : Statement (.oraa o) := fun _ => encode8_length _ o
theorem orab (o : Src8) : Statement (.orab o) := fun _ => encode8_length _ o
theorem rol (m : Ea) : Statement (.rol m) := fun h => rmw_length _ m h
theorem rola : Statement (.rola) := fun _ => ⟨by decide, by decide⟩
theorem rolb : Statement (.rolb) := fun _ => ⟨by decide, by decide⟩
theorem ror (m : Ea) : Statement (.ror m) := fun h => rmw_length _ m h
theorem rora : Statement (.rora) := fun _ => ⟨by decide, by decide⟩
theorem rorb : Statement (.rorb) := fun _ => ⟨by decide, by decide⟩
theorem bcc (rr : Byte) : Statement (.bcc rr) := fun _ => ⟨by simp [encode], by simp [encode]⟩
theorem bcs (rr : Byte) : Statement (.bcs rr) := fun _ => ⟨by simp [encode], by simp [encode]⟩
theorem beq (rr : Byte) : Statement (.beq rr) := fun _ => ⟨by simp [encode], by simp [encode]⟩
theorem bge (rr : Byte) : Statement (.bge rr) := fun _ => ⟨by simp [encode], by simp [encode]⟩
theorem bgt (rr : Byte) : Statement (.bgt rr) := fun _ => ⟨by simp [encode], by simp [encode]⟩
theorem bhi (rr : Byte) : Statement (.bhi rr) := fun _ => ⟨by simp [encode], by simp [encode]⟩
theorem ble (rr : Byte) : Statement (.ble rr) := fun _ => ⟨by simp [encode], by simp [encode]⟩
theorem bls (rr : Byte) : Statement (.bls rr) := fun _ => ⟨by simp [encode], by simp [encode]⟩
theorem blt (rr : Byte) : Statement (.blt rr) := fun _ => ⟨by simp [encode], by simp [encode]⟩
theorem bmi (rr : Byte) : Statement (.bmi rr) := fun _ => ⟨by simp [encode], by simp [encode]⟩
theorem bne (rr : Byte) : Statement (.bne rr) := fun _ => ⟨by simp [encode], by simp [encode]⟩
theorem bpl (rr : Byte) : Statement (.bpl rr) := fun _ => ⟨by simp [encode], by simp [encode]⟩
theorem bra (rr : Byte) : Statement (.bra rr) := fun _ => ⟨by simp [encode], by simp [encode]⟩
theorem brclr (m : Ea) (mm rr : Byte) : Statement (.brclr m mm rr) := fun h => bit_length _ _ _ m h (by simp)
theorem brn (rr : Byte) : Statement (.brn rr) := fun _ => ⟨by simp [encode], by simp [encode]⟩
theorem brset (m : Ea) (mm rr : Byte) : Statement (.brset m mm rr) := fun h => bit_length _ _ _ m h (by simp)
theorem bsr (rr : Byte) : Statement (.bsr rr) := fun _ => ⟨by simp [encode], by simp [encode]⟩
theorem bvc (rr : Byte) : Statement (.bvc rr) := fun _ => ⟨by simp [encode], by simp [encode]⟩
theorem bvs (rr : Byte) : Statement (.bvs rr) := fun _ => ⟨by simp [encode], by simp [encode]⟩
theorem jmp (m : Ea) : Statement (.jmp m) := fun h => rmw_length _ m h
theorem jsr (m : Ea) : Statement (.jsr m) := fun _ => mem_length _ _ _ _ m (by simp) (by simp) (by simp)
theorem rts : Statement (.rts) := fun _ => ⟨by decide, by decide⟩
theorem clc : Statement (.clc) := fun _ => ⟨by decide, by decide⟩
theorem cli : Statement (.cli) := fun _ => ⟨by decide, by decide⟩
theorem clv : Statement (.clv) := fun _ => ⟨by decide, by decide⟩
theorem nop : Statement (.nop) := fun _ => ⟨by decide, by decide⟩
theorem rti : Statement (.rti) := fun _ => ⟨by decide, by decide⟩
theorem sec : Statement (.sec) := fun _ => ⟨by decide, by decide⟩
theorem sei : Statement (.sei) := fun _ => ⟨by decide, by decide⟩
theorem sev : Statement (.sev) := fun _ => ⟨by decide, by decide⟩
theorem stop : Statement (.stop) := fun _ => ⟨by decide, by decide⟩
theorem swi : Statement (.swi) := fun _ => ⟨by decide, by decide⟩
theorem test : Statement (.test) := fun _ => ⟨by decide, by decide⟩
theorem wai : Statement (.wai) := fun _ => ⟨by decide, by decide⟩

end Sys2Proof.Laws.EncodedLength
end

