-- ==== Sys2Proof/Tests/Slice0.lean ====
section
/-! SUPPORT. Tests: WellFormed refuses ill-formed terms, words written out from Table 1 decode, single steps end as the
vectors of 95_test_vectors.md and the examples of the rules say, and the hypotheses of every obligation are met by a state.
Every expected result is the spec's. -/

namespace Sys2Proof.Tests

open Sys2Proof Sys2Proof.Machine

/-! States. -/

/-- The condition codes of a CCR byte (R27). -/
def ccrOf (v : Byte) : Ccr where
  s := bit v 7
  x := bit v 6
  h := bit v 5
  i := bit v 4
  n := bit v 3
  z := bit v 2
  v := bit v 1
  c := bit v 0

/-- A state of the default configuration of 95_test_vectors.md: MC68HC11E9 in expanded mode, external RAM. -/
def start (a b : Byte) (ix iy sp pc : Word) (ccr : Byte) : State :=
  { State.reset with
    cpu := { a := a, b := b, ix := ix, iy := iy, sp := sp, pc := pc, ccr := ccrOf ccr, run := .running, iCleared := false } }

/-- The same in special test mode. -/
def special (a b : Byte) (ix iy sp pc : Word) (ccr : Byte) : State :=
  let s := start a b ix iy sp pc ccr
  s.setSys { s.io.sys with hprio := 0x76, test1 := 0x08 }

/-- The default start state. -/
def plain : State := start 0 0 0 0 0x01FF 0x2000 0xD0

/-- Bytes placed at several addresses. -/
def fill (s : State) : List (Word × List Byte) → State
  | [] => s
  | (a, bs) :: l => fill (s.placeAll a bs) l

/-- The bytes from an address on are these. -/
def holds (s : State) (a : Word) : List Byte → Bool
  | [] => true
  | b :: bs => peek s a == b && holds s (a + 1) bs

/-- The expected registers: A and B where they are fixed, the others, and the CCR in the bits of a mask. -/
def expect (a b : Option Byte) (ix iy sp pc : Word) (ccr mask : Byte) (t : State) : Bool :=
  let f := t.cpu.ccr
  a.all (t.cpu.a == ·) && b.all (t.cpu.b == ·) && t.cpu.ix == ix && t.cpu.iy == iy && t.cpu.sp == sp && t.cpu.pc == pc &&
    [(7, f.s), (6, f.x), (5, f.h), (4, f.i), (3, f.n), (2, f.z), (1, f.v), (0, f.c)].all fun x =>
      !bit mask x.1 || x.2 == bit ccr x.1

/-- The outcome is a next state with the property. -/
def nextIs (o : Result) (p : State → Bool) : Bool :=
  match o with
  | .next t => p t
  | _ => false

/-- One step with `code` at PC and `mem` in memory ends as expected, with `out` in memory. -/
def vector (s : State) (code : List Byte) (mem : List (Word × List Byte)) (p : State → Bool) (out : List (Word × List Byte)) :
    Bool :=
  nextIs (step (fill (s.placeAll s.cpu.pc code) mem)) fun t => p t && out.all fun x => holds t x.1 x.2

/-! Encoding. -/

/-- Each word decodes to its instruction, leaves nothing, and is the instruction's encoding. -/
def decodesAll (l : List (List Byte × Instr)) : Bool :=
  l.all fun x =>
    (match decode x.1 with
      | .ok r => r == (x.2, [])
      | .error _ => false) &&
      x.2.wellFormed && encode x.2 == x.1

theorem test_decode_load_store_transfer_1 :
    decodesAll
      [ ([0x7F, 0x12, 0x9A], .clr (.ext 0x129A)),
        ([0x6F, 0x12], .clr (.indX 0x12)),
        ([0x4F], .clra),
        ([0x5F], .clrb),
        ([0x86, 0x12], .ldaa (.imm 0x12)),
        ([0x96, 0x12], .ldaa (.mem (.dir 0x12))),
        ([0xB6, 0x12, 0x9A], .ldaa (.mem (.ext 0x129A))),
        ([0xA6, 0x12], .ldaa (.mem (.indX 0x12))),
        ([0xC6, 0x12], .ldab (.imm 0x12)),
        ([0xD6, 0x12], .ldab (.mem (.dir 0x12))),
        ([0xF6, 0x12, 0x9A], .ldab (.mem (.ext 0x129A))),
        ([0xE6, 0x12], .ldab (.mem (.indX 0x12))),
        ([0xCC, 0x12, 0x9A], .ldd (.imm 0x129A)),
        ([0xDC, 0x12], .ldd (.mem (.dir 0x12))),
        ([0xFC, 0x12, 0x9A], .ldd (.mem (.ext 0x129A))),
        ([0xEC, 0x12], .ldd (.mem (.indX 0x12))),
        ([0x8E, 0x12, 0x9A], .lds (.imm 0x129A)),
        ([0x9E, 0x12], .lds (.mem (.dir 0x12))),
        ([0xBE, 0x12, 0x9A], .lds (.mem (.ext 0x129A))),
        ([0xAE, 0x12], .lds (.mem (.indX 0x12))) ] = true := by
  decide

theorem test_decode_load_store_transfer_2 :
    decodesAll
      [ ([0xCE, 0x12, 0x9A], .ldx (.imm 0x129A)),
        ([0xDE, 0x12], .ldx (.mem (.dir 0x12))),
        ([0xFE, 0x12, 0x9A], .ldx (.mem (.ext 0x129A))),
        ([0xEE, 0x12], .ldx (.mem (.indX 0x12))),
        ([0x36], .psha),
        ([0x37], .pshb),
        ([0x3C], .pshx),
        ([0x32], .pula),
        ([0x33], .pulb),
        ([0x38], .pulx),
        ([0x97, 0x12], .staa (.dir 0x12)),
        ([0xB7, 0x12, 0x9A], .staa (.ext 0x129A)),
        ([0xA7, 0x12], .staa (.indX 0x12)),
        ([0xD7, 0x12], .stab (.dir 0x12)),
        ([0xF7, 0x12, 0x9A], .stab (.ext 0x129A)),
        ([0xE7, 0x12], .stab (.indX 0x12)),
        ([0xDD, 0x12], .std (.dir 0x12)),
        ([0xFD, 0x12, 0x9A], .std (.ext 0x129A)),
        ([0xED, 0x12], .std (.indX 0x12)),
        ([0x9F, 0x12], .sts (.dir 0x12)) ] = true := by
  decide

theorem test_decode_load_store_transfer_3 :
    decodesAll
      [ ([0xBF, 0x12, 0x9A], .sts (.ext 0x129A)),
        ([0xAF, 0x12], .sts (.indX 0x12)),
        ([0xDF, 0x12], .stx (.dir 0x12)),
        ([0xFF, 0x12, 0x9A], .stx (.ext 0x129A)),
        ([0xEF, 0x12], .stx (.indX 0x12)),
        ([0x16], .tab),
        ([0x06], .tap),
        ([0x17], .tba),
        ([0x07], .tpa),
        ([0x30], .tsx),
        ([0x35], .txs),
        ([0x8F], .xgdx) ] = true := by
  decide

theorem test_decode_load_store_transfer_page2_1 :
    decodesAll
      [ ([0x18, 0x6F, 0x12], .clr (.indY 0x12)),
        ([0x18, 0xA6, 0x12], .ldaa (.mem (.indY 0x12))),
        ([0x18, 0xE6, 0x12], .ldab (.mem (.indY 0x12))),
        ([0x18, 0xEC, 0x12], .ldd (.mem (.indY 0x12))),
        ([0x18, 0xAE, 0x12], .lds (.mem (.indY 0x12))),
        ([0x18, 0xCE, 0x12, 0x9A], .ldy (.imm 0x129A)),
        ([0x18, 0xDE, 0x12], .ldy (.mem (.dir 0x12))),
        ([0x18, 0xFE, 0x12, 0x9A], .ldy (.mem (.ext 0x129A))),
        ([0x18, 0xEE, 0x12], .ldy (.mem (.indY 0x12))),
        ([0x18, 0x3C], .pshy),
        ([0x18, 0x38], .puly),
        ([0x18, 0xA7, 0x12], .staa (.indY 0x12)),
        ([0x18, 0xE7, 0x12], .stab (.indY 0x12)),
        ([0x18, 0xED, 0x12], .std (.indY 0x12)),
        ([0x18, 0xAF, 0x12], .sts (.indY 0x12)),
        ([0x18, 0xDF, 0x12], .sty (.dir 0x12)),
        ([0x18, 0xFF, 0x12, 0x9A], .sty (.ext 0x129A)),
        ([0x18, 0xEF, 0x12], .sty (.indY 0x12)),
        ([0x18, 0x30], .tsy),
        ([0x18, 0x35], .tys) ] = true := by
  decide

theorem test_decode_load_store_transfer_page2_2 :
    decodesAll
      [ ([0x18, 0x8F], .xgdy) ] = true := by
  decide

theorem test_decode_load_store_transfer_page3 :
    decodesAll
      [ ([0x1A, 0xEE, 0x12], .ldy (.mem (.indX 0x12))),
        ([0x1A, 0xEF, 0x12], .sty (.indX 0x12)) ] = true := by
  decide

theorem test_decode_load_store_transfer_page4 :
    decodesAll
      [ ([0xCD, 0xEE, 0x12], .ldx (.mem (.indY 0x12))),
        ([0xCD, 0xEF, 0x12], .stx (.indY 0x12)) ] = true := by
  decide

theorem test_decode_arithmetic_1 :
    decodesAll
      [ ([0x1B], .aba),
        ([0x3A], .abx),
        ([0x89, 0x12], .adca (.imm 0x12)),
        ([0x99, 0x12], .adca (.mem (.dir 0x12))),
        ([0xB9, 0x12, 0x9A], .adca (.mem (.ext 0x129A))),
        ([0xA9, 0x12], .adca (.mem (.indX 0x12))),
        ([0xC9, 0x12], .adcb (.imm 0x12)),
        ([0xD9, 0x12], .adcb (.mem (.dir 0x12))),
        ([0xF9, 0x12, 0x9A], .adcb (.mem (.ext 0x129A))),
        ([0xE9, 0x12], .adcb (.mem (.indX 0x12))),
        ([0x8B, 0x12], .adda (.imm 0x12)),
        ([0x9B, 0x12], .adda (.mem (.dir 0x12))),
        ([0xBB, 0x12, 0x9A], .adda (.mem (.ext 0x129A))),
        ([0xAB, 0x12], .adda (.mem (.indX 0x12))),
        ([0xCB, 0x12], .addb (.imm 0x12)),
        ([0xDB, 0x12], .addb (.mem (.dir 0x12))),
        ([0xFB, 0x12, 0x9A], .addb (.mem (.ext 0x129A))),
        ([0xEB, 0x12], .addb (.mem (.indX 0x12))),
        ([0xC3, 0x12, 0x9A], .addd (.imm 0x129A)),
        ([0xD3, 0x12], .addd (.mem (.dir 0x12))) ] = true := by
  decide

theorem test_decode_arithmetic_2 :
    decodesAll
      [ ([0xF3, 0x12, 0x9A], .addd (.mem (.ext 0x129A))),
        ([0xE3, 0x12], .addd (.mem (.indX 0x12))),
        ([0x11], .cba),
        ([0x81, 0x12], .cmpa (.imm 0x12)),
        ([0x91, 0x12], .cmpa (.mem (.dir 0x12))),
        ([0xB1, 0x12, 0x9A], .cmpa (.mem (.ext 0x129A))),
        ([0xA1, 0x12], .cmpa (.mem (.indX 0x12))),
        ([0xC1, 0x12], .cmpb (.imm 0x12)),
        ([0xD1, 0x12], .cmpb (.mem (.dir 0x12))),
        ([0xF1, 0x12, 0x9A], .cmpb (.mem (.ext 0x129A))),
        ([0xE1, 0x12], .cmpb (.mem (.indX 0x12))),
        ([0x8C, 0x12, 0x9A], .cpx (.imm 0x129A)),
        ([0x9C, 0x12], .cpx (.mem (.dir 0x12))),
        ([0xBC, 0x12, 0x9A], .cpx (.mem (.ext 0x129A))),
        ([0xAC, 0x12], .cpx (.mem (.indX 0x12))),
        ([0x19], .daa),
        ([0x7A, 0x12, 0x9A], .dec (.ext 0x129A)),
        ([0x6A, 0x12], .dec (.indX 0x12)),
        ([0x4A], .deca),
        ([0x5A], .decb) ] = true := by
  decide

theorem test_decode_arithmetic_3 :
    decodesAll
      [ ([0x34], .des),
        ([0x09], .dex),
        ([0x03], .fdiv),
        ([0x02], .idiv),
        ([0x7C, 0x12, 0x9A], .inc (.ext 0x129A)),
        ([0x6C, 0x12], .inc (.indX 0x12)),
        ([0x4C], .inca),
        ([0x5C], .incb),
        ([0x31], .ins),
        ([0x08], .inx),
        ([0x3D], .mul),
        ([0x70, 0x12, 0x9A], .neg (.ext 0x129A)),
        ([0x60, 0x12], .neg (.indX 0x12)),
        ([0x40], .nega),
        ([0x50], .negb),
        ([0x10], .sba),
        ([0x82, 0x12], .sbca (.imm 0x12)),
        ([0x92, 0x12], .sbca (.mem (.dir 0x12))),
        ([0xB2, 0x12, 0x9A], .sbca (.mem (.ext 0x129A))),
        ([0xA2, 0x12], .sbca (.mem (.indX 0x12))) ] = true := by
  decide

theorem test_decode_arithmetic_4 :
    decodesAll
      [ ([0xC2, 0x12], .sbcb (.imm 0x12)),
        ([0xD2, 0x12], .sbcb (.mem (.dir 0x12))),
        ([0xF2, 0x12, 0x9A], .sbcb (.mem (.ext 0x129A))),
        ([0xE2, 0x12], .sbcb (.mem (.indX 0x12))),
        ([0x80, 0x12], .suba (.imm 0x12)),
        ([0x90, 0x12], .suba (.mem (.dir 0x12))),
        ([0xB0, 0x12, 0x9A], .suba (.mem (.ext 0x129A))),
        ([0xA0, 0x12], .suba (.mem (.indX 0x12))),
        ([0xC0, 0x12], .subb (.imm 0x12)),
        ([0xD0, 0x12], .subb (.mem (.dir 0x12))),
        ([0xF0, 0x12, 0x9A], .subb (.mem (.ext 0x129A))),
        ([0xE0, 0x12], .subb (.mem (.indX 0x12))),
        ([0x83, 0x12, 0x9A], .subd (.imm 0x129A)),
        ([0x93, 0x12], .subd (.mem (.dir 0x12))),
        ([0xB3, 0x12, 0x9A], .subd (.mem (.ext 0x129A))),
        ([0xA3, 0x12], .subd (.mem (.indX 0x12))),
        ([0x7D, 0x12, 0x9A], .tst (.ext 0x129A)),
        ([0x6D, 0x12], .tst (.indX 0x12)),
        ([0x4D], .tsta),
        ([0x5D], .tstb) ] = true := by
  decide

theorem test_decode_arithmetic_page2_1 :
    decodesAll
      [ ([0x18, 0x3A], .aby),
        ([0x18, 0xA9, 0x12], .adca (.mem (.indY 0x12))),
        ([0x18, 0xE9, 0x12], .adcb (.mem (.indY 0x12))),
        ([0x18, 0xAB, 0x12], .adda (.mem (.indY 0x12))),
        ([0x18, 0xEB, 0x12], .addb (.mem (.indY 0x12))),
        ([0x18, 0xE3, 0x12], .addd (.mem (.indY 0x12))),
        ([0x18, 0xA1, 0x12], .cmpa (.mem (.indY 0x12))),
        ([0x18, 0xE1, 0x12], .cmpb (.mem (.indY 0x12))),
        ([0x18, 0x8C, 0x12, 0x9A], .cpy (.imm 0x129A)),
        ([0x18, 0x9C, 0x12], .cpy (.mem (.dir 0x12))),
        ([0x18, 0xBC, 0x12, 0x9A], .cpy (.mem (.ext 0x129A))),
        ([0x18, 0xAC, 0x12], .cpy (.mem (.indY 0x12))),
        ([0x18, 0x6A, 0x12], .dec (.indY 0x12)),
        ([0x18, 0x09], .dey),
        ([0x18, 0x6C, 0x12], .inc (.indY 0x12)),
        ([0x18, 0x08], .iny),
        ([0x18, 0x60, 0x12], .neg (.indY 0x12)),
        ([0x18, 0xA2, 0x12], .sbca (.mem (.indY 0x12))),
        ([0x18, 0xE2, 0x12], .sbcb (.mem (.indY 0x12))),
        ([0x18, 0xA0, 0x12], .suba (.mem (.indY 0x12))) ] = true := by
  decide

theorem test_decode_arithmetic_page2_2 :
    decodesAll
      [ ([0x18, 0xE0, 0x12], .subb (.mem (.indY 0x12))),
        ([0x18, 0xA3, 0x12], .subd (.mem (.indY 0x12))),
        ([0x18, 0x6D, 0x12], .tst (.indY 0x12)) ] = true := by
  decide

theorem test_decode_arithmetic_page3 :
    decodesAll
      [ ([0x1A, 0x83, 0x12, 0x9A], .cpd (.imm 0x129A)),
        ([0x1A, 0x93, 0x12], .cpd (.mem (.dir 0x12))),
        ([0x1A, 0xB3, 0x12, 0x9A], .cpd (.mem (.ext 0x129A))),
        ([0x1A, 0xA3, 0x12], .cpd (.mem (.indX 0x12))),
        ([0x1A, 0xAC, 0x12], .cpy (.mem (.indX 0x12))) ] = true := by
  decide

theorem test_decode_arithmetic_page4 :
    decodesAll
      [ ([0xCD, 0xA3, 0x12], .cpd (.mem (.indY 0x12))),
        ([0xCD, 0xAC, 0x12], .cpx (.mem (.indY 0x12))) ] = true := by
  decide

theorem test_decode_logic_shift_bit_1 :
    decodesAll
      [ ([0x84, 0x12], .anda (.imm 0x12)),
        ([0x94, 0x12], .anda (.mem (.dir 0x12))),
        ([0xB4, 0x12, 0x9A], .anda (.mem (.ext 0x129A))),
        ([0xA4, 0x12], .anda (.mem (.indX 0x12))),
        ([0xC4, 0x12], .andb (.imm 0x12)),
        ([0xD4, 0x12], .andb (.mem (.dir 0x12))),
        ([0xF4, 0x12, 0x9A], .andb (.mem (.ext 0x129A))),
        ([0xE4, 0x12], .andb (.mem (.indX 0x12))),
        ([0x78, 0x12, 0x9A], .asl (.ext 0x129A)),
        ([0x68, 0x12], .asl (.indX 0x12)),
        ([0x48], .asla),
        ([0x58], .aslb),
        ([0x05], .asld),
        ([0x77, 0x12, 0x9A], .asr (.ext 0x129A)),
        ([0x67, 0x12], .asr (.indX 0x12)),
        ([0x47], .asra),
        ([0x57], .asrb),
        ([0x15, 0x12, 0x9A], .bclr (.dir 0x12) 0x9A),
        ([0x1D, 0x12, 0x9A], .bclr (.indX 0x12) 0x9A),
        ([0x85, 0x12], .bita (.imm 0x12)) ] = true := by
  decide

theorem test_decode_logic_shift_bit_2 :
    decodesAll
      [ ([0x95, 0x12], .bita (.mem (.dir 0x12))),
        ([0xB5, 0x12, 0x9A], .bita (.mem (.ext 0x129A))),
        ([0xA5, 0x12], .bita (.mem (.indX 0x12))),
        ([0xC5, 0x12], .bitb (.imm 0x12)),
        ([0xD5, 0x12], .bitb (.mem (.dir 0x12))),
        ([0xF5, 0x12, 0x9A], .bitb (.mem (.ext 0x129A))),
        ([0xE5, 0x12], .bitb (.mem (.indX 0x12))),
        ([0x14, 0x12, 0x9A], .bset (.dir 0x12) 0x9A),
        ([0x1C, 0x12, 0x9A], .bset (.indX 0x12) 0x9A),
        ([0x73, 0x12, 0x9A], .com (.ext 0x129A)),
        ([0x63, 0x12], .com (.indX 0x12)),
        ([0x43], .coma),
        ([0x53], .comb),
        ([0x88, 0x12], .eora (.imm 0x12)),
        ([0x98, 0x12], .eora (.mem (.dir 0x12))),
        ([0xB8, 0x12, 0x9A], .eora (.mem (.ext 0x129A))),
        ([0xA8, 0x12], .eora (.mem (.indX 0x12))),
        ([0xC8, 0x12], .eorb (.imm 0x12)),
        ([0xD8, 0x12], .eorb (.mem (.dir 0x12))),
        ([0xF8, 0x12, 0x9A], .eorb (.mem (.ext 0x129A))) ] = true := by
  decide

theorem test_decode_logic_shift_bit_3 :
    decodesAll
      [ ([0xE8, 0x12], .eorb (.mem (.indX 0x12))),
        ([0x74, 0x12, 0x9A], .lsr (.ext 0x129A)),
        ([0x64, 0x12], .lsr (.indX 0x12)),
        ([0x44], .lsra),
        ([0x54], .lsrb),
        ([0x04], .lsrd),
        ([0x8A, 0x12], .oraa (.imm 0x12)),
        ([0x9A, 0x12], .oraa (.mem (.dir 0x12))),
        ([0xBA, 0x12, 0x9A], .oraa (.mem (.ext 0x129A))),
        ([0xAA, 0x12], .oraa (.mem (.indX 0x12))),
        ([0xCA, 0x12], .orab (.imm 0x12)),
        ([0xDA, 0x12], .orab (.mem (.dir 0x12))),
        ([0xFA, 0x12, 0x9A], .orab (.mem (.ext 0x129A))),
        ([0xEA, 0x12], .orab (.mem (.indX 0x12))),
        ([0x79, 0x12, 0x9A], .rol (.ext 0x129A)),
        ([0x69, 0x12], .rol (.indX 0x12)),
        ([0x49], .rola),
        ([0x59], .rolb),
        ([0x76, 0x12, 0x9A], .ror (.ext 0x129A)),
        ([0x66, 0x12], .ror (.indX 0x12)) ] = true := by
  decide

theorem test_decode_logic_shift_bit_4 :
    decodesAll
      [ ([0x46], .rora),
        ([0x56], .rorb) ] = true := by
  decide

theorem test_decode_logic_shift_bit_page2 :
    decodesAll
      [ ([0x18, 0xA4, 0x12], .anda (.mem (.indY 0x12))),
        ([0x18, 0xE4, 0x12], .andb (.mem (.indY 0x12))),
        ([0x18, 0x68, 0x12], .asl (.indY 0x12)),
        ([0x18, 0x67, 0x12], .asr (.indY 0x12)),
        ([0x18, 0x1D, 0x12, 0x9A], .bclr (.indY 0x12) 0x9A),
        ([0x18, 0xA5, 0x12], .bita (.mem (.indY 0x12))),
        ([0x18, 0xE5, 0x12], .bitb (.mem (.indY 0x12))),
        ([0x18, 0x1C, 0x12, 0x9A], .bset (.indY 0x12) 0x9A),
        ([0x18, 0x63, 0x12], .com (.indY 0x12)),
        ([0x18, 0xA8, 0x12], .eora (.mem (.indY 0x12))),
        ([0x18, 0xE8, 0x12], .eorb (.mem (.indY 0x12))),
        ([0x18, 0x64, 0x12], .lsr (.indY 0x12)),
        ([0x18, 0xAA, 0x12], .oraa (.mem (.indY 0x12))),
        ([0x18, 0xEA, 0x12], .orab (.mem (.indY 0x12))),
        ([0x18, 0x69, 0x12], .rol (.indY 0x12)),
        ([0x18, 0x66, 0x12], .ror (.indY 0x12)) ] = true := by
  decide

theorem test_decode_branch_jump_1 :
    decodesAll
      [ ([0x24, 0x12], .bcc 0x12),
        ([0x25, 0x12], .bcs 0x12),
        ([0x27, 0x12], .beq 0x12),
        ([0x2C, 0x12], .bge 0x12),
        ([0x2E, 0x12], .bgt 0x12),
        ([0x22, 0x12], .bhi 0x12),
        ([0x2F, 0x12], .ble 0x12),
        ([0x23, 0x12], .bls 0x12),
        ([0x2D, 0x12], .blt 0x12),
        ([0x2B, 0x12], .bmi 0x12),
        ([0x26, 0x12], .bne 0x12),
        ([0x2A, 0x12], .bpl 0x12),
        ([0x20, 0x12], .bra 0x12),
        ([0x13, 0x12, 0x9A, 0xE4], .brclr (.dir 0x12) 0x9A 0xE4),
        ([0x1F, 0x12, 0x9A, 0xE4], .brclr (.indX 0x12) 0x9A 0xE4),
        ([0x21, 0x12], .brn 0x12),
        ([0x12, 0x12, 0x9A, 0xE4], .brset (.dir 0x12) 0x9A 0xE4),
        ([0x1E, 0x12, 0x9A, 0xE4], .brset (.indX 0x12) 0x9A 0xE4),
        ([0x8D, 0x12], .bsr 0x12),
        ([0x28, 0x12], .bvc 0x12) ] = true := by
  decide

theorem test_decode_branch_jump_2 :
    decodesAll
      [ ([0x29, 0x12], .bvs 0x12),
        ([0x7E, 0x12, 0x9A], .jmp (.ext 0x129A)),
        ([0x6E, 0x12], .jmp (.indX 0x12)),
        ([0x9D, 0x12], .jsr (.dir 0x12)),
        ([0xBD, 0x12, 0x9A], .jsr (.ext 0x129A)),
        ([0xAD, 0x12], .jsr (.indX 0x12)),
        ([0x39], .rts) ] = true := by
  decide

theorem test_decode_branch_jump_page2 :
    decodesAll
      [ ([0x18, 0x1F, 0x12, 0x9A, 0xE4], .brclr (.indY 0x12) 0x9A 0xE4),
        ([0x18, 0x1E, 0x12, 0x9A, 0xE4], .brset (.indY 0x12) 0x9A 0xE4),
        ([0x18, 0x6E, 0x12], .jmp (.indY 0x12)),
        ([0x18, 0xAD, 0x12], .jsr (.indY 0x12)) ] = true := by
  decide

theorem test_decode_system :
    decodesAll
      [ ([0x0C], .clc),
        ([0x0E], .cli),
        ([0x0A], .clv),
        ([0x01], .nop),
        ([0x3B], .rti),
        ([0x0D], .sec),
        ([0x0F], .sei),
        ([0x0B], .sev),
        ([0xCF], .stop),
        ([0x3F], .swi),
        ([0x00], .test),
        ([0x3E], .wai) ] = true := by
  decide
/-! Steps. -/

/-- VL1: LDAA IMM. -/
theorem test_ldaa_1 : vector (start 0x55 0x00 0x0000 0x0000 0x01FF 0x2000 0xD3)
    [0x86, 0x00] []
    (expect (some 0x00) (some 0x00) 0x0000 0x0000 0x01FF 0x2002 0xD5 0xFF) [] = true := by decide

/-- VL2: LDAA IMM. -/
theorem test_ldaa_2 : vector (start 0x00 0x00 0x0000 0x0000 0x01FF 0x2000 0xD1)
    [0x86, 0x80] []
    (expect (some 0x80) (some 0x00) 0x0000 0x0000 0x01FF 0x2002 0xD9 0xFF) [] = true := by decide

/-- VL3: LDAB EXT. -/
theorem test_ldab : vector (start 0x00 0x00 0x0000 0x0000 0x01FF 0x2000 0xD0)
    [0xF6, 0x01, 0x23] [(0x0123, [0x7F])]
    (expect (some 0x00) (some 0x7F) 0x0000 0x0000 0x01FF 0x2003 0xD0 0xFF) [] = true := by decide

/-- VL4: LDD DIR. -/
theorem test_ldd : vector (start 0x00 0x00 0x0000 0x0000 0x01FF 0x2000 0xD0)
    [0xDC, 0xFF] [(0x00FF, [0x12, 0x34])]
    (expect (some 0x12) (some 0x34) 0x0000 0x0000 0x01FF 0x2002 0xD0 0xFF) [] = true := by decide

/-- VL5: LDX IND,Y wrap. -/
theorem test_ldx : vector (start 0x00 0x00 0x0000 0xFFF0 0x01FF 0x2000 0xD0)
    [0xCD, 0xEE, 0x20] [(0x0010, [0xAB, 0xCD])]
    (expect (some 0x00) (some 0x00) 0xABCD 0xFFF0 0x01FF 0x2003 0xD8 0xFF) [] = true := by decide

/-- VL6: LDY IMM. -/
theorem test_ldy : vector (start 0x00 0x00 0x0000 0x0000 0x01FF 0x2000 0xD0)
    [0x18, 0xCE, 0x80, 0x00] []
    (expect (some 0x00) (some 0x00) 0x0000 0x8000 0x01FF 0x2004 0xD8 0xFF) [] = true := by decide

/-- VL7: LDS IND,X. -/
theorem test_lds : vector (start 0x00 0x00 0x1000 0x0000 0x01FF 0x2000 0xD0)
    [0xAE, 0xFF] [(0x10FF, [0x01, 0xFF])]
    (expect (some 0x00) (some 0x00) 0x1000 0x0000 0x01FF 0x2002 0xD0 0xFF) [] = true := by decide

/-- VL8: STAA IND,X. -/
theorem test_staa : vector (start 0x00 0x00 0x0100 0x0000 0x01FF 0x2000 0xD1)
    [0xA7, 0x01] []
    (expect (some 0x00) (some 0x00) 0x0100 0x0000 0x01FF 0x2002 0xD5 0xFF) [(0x0101, [0x00])] = true := by decide

/-- VL9: STD EXT at $FFFF (wrap). -/
theorem test_std : vector (start 0x12 0x34 0x0000 0x0000 0x01FF 0x2000 0xD0)
    [0xFD, 0xFF, 0xFF] []
    (expect (some 0x12) (some 0x34) 0x0000 0x0000 0x01FF 0x2003 0xD0 0xFF) [(0xFFFF, [0x12, 0x34])] = true := by decide

/-- VL10: STX DIR. -/
theorem test_stx : vector (start 0x00 0x00 0x8001 0x0000 0x01FF 0x2000 0xD0)
    [0xDF, 0x40] []
    (expect (some 0x00) (some 0x00) 0x8001 0x0000 0x01FF 0x2002 0xD8 0xFF) [(0x0040, [0x80, 0x01])] = true := by decide

/-- VL11: STY IND,Y. -/
theorem test_sty : vector (start 0x00 0x00 0x0000 0x0300 0x01FF 0x2000 0xD0)
    [0x18, 0xEF, 0x02] []
    (expect (some 0x00) (some 0x00) 0x0000 0x0300 0x01FF 0x2003 0xD0 0xFF) [(0x0302, [0x03, 0x00])] = true := by decide

/-- VL12: CLR EXT. -/
theorem test_clr : vector (start 0x00 0x00 0x0000 0x0000 0x01FF 0x2000 0xDB)
    [0x7F, 0x01, 0x00] [(0x0100, [0xFF])]
    (expect (some 0x00) (some 0x00) 0x0000 0x0000 0x01FF 0x2003 0xD4 0xFF) [(0x0100, [0x00])] = true := by decide

/-- VL13: CLRA. -/
theorem test_clra : vector (start 0x99 0x00 0x0000 0x0000 0x01FF 0x2000 0xD1)
    [0x4F] []
    (expect (some 0x00) (some 0x00) 0x0000 0x0000 0x01FF 0x2001 0xD4 0xFF) [] = true := by decide

/-- VL14: PSHA. -/
theorem test_psha : vector (start 0xAB 0x00 0x0000 0x0000 0x01FF 0x2000 0xD0)
    [0x36] []
    (expect (some 0xAB) (some 0x00) 0x0000 0x0000 0x01FE 0x2001 0xD0 0xFF) [(0x01FF, [0xAB])] = true := by decide

/-- VL15: PSHX. -/
theorem test_pshx : vector (start 0x00 0x00 0x1234 0x0000 0x01FF 0x2000 0xD0)
    [0x3C] []
    (expect (some 0x00) (some 0x00) 0x1234 0x0000 0x01FD 0x2001 0xD0 0xFF) [(0x01FE, [0x12, 0x34])] = true := by decide

/-- VL16: PSHB at SP=$0000. -/
theorem test_pshb : vector (start 0x00 0x77 0x0000 0x0000 0x0000 0x2000 0xD0)
    [0x37] []
    (expect (some 0x00) (some 0x77) 0x0000 0x0000 0xFFFF 0x2001 0xD0 0xFF) [(0x0000, [0x77])] = true := by decide

/-- VL17: PULA. -/
theorem test_pula : vector (start 0x00 0x00 0x0000 0x0000 0x01FE 0x2000 0xD4)
    [0x32] [(0x01FF, [0x5A])]
    (expect (some 0x5A) (some 0x00) 0x0000 0x0000 0x01FF 0x2001 0xD4 0xFF) [] = true := by decide

/-- VL18: PULY. -/
theorem test_puly : vector (start 0x00 0x00 0x0000 0x0000 0x01FD 0x2000 0xD0)
    [0x18, 0x38] [(0x01FE, [0xBE, 0xEF])]
    (expect (some 0x00) (some 0x00) 0x0000 0xBEEF 0x01FF 0x2002 0xD0 0xFF) [] = true := by decide

/-- VL19: PULX at SP=$FFFF (wrap). -/
theorem test_pulx : vector (start 0x00 0x00 0x0000 0x0000 0xFFFF 0x2000 0xD0)
    [0x38] [(0x0000, [0x11, 0x22])]
    (expect (some 0x00) (some 0x00) 0x1122 0x0000 0x0001 0x2001 0xD0 0xFF) [] = true := by decide

/-- VL20: TAB. -/
theorem test_tab : vector (start 0x80 0x00 0x0000 0x0000 0x01FF 0x2000 0xD3)
    [0x16] []
    (expect (some 0x80) (some 0x80) 0x0000 0x0000 0x01FF 0x2001 0xD9 0xFF) [] = true := by decide

/-- VL21: TBA. -/
theorem test_tba : vector (start 0x00 0x00 0x0000 0x0000 0x01FF 0x2000 0xD2)
    [0x17] []
    (expect (some 0x00) (some 0x00) 0x0000 0x0000 0x01FF 0x2001 0xD4 0xFF) [] = true := by decide

/-- VL22: TAP clears X. -/
theorem test_tap_1 : vector (start 0x00 0x00 0x0000 0x0000 0x01FF 0x2000 0xD0)
    [0x06] []
    (expect (some 0x00) (some 0x00) 0x0000 0x0000 0x01FF 0x2001 0x00 0xFF) [] = true := by decide

/-- VL23: TAP cannot set X. -/
theorem test_tap_2 : vector (start 0xFF 0x00 0x0000 0x0000 0x01FF 0x2000 0x00)
    [0x06] []
    (expect (some 0xFF) (some 0x00) 0x0000 0x0000 0x01FF 0x2001 0xBF 0xFF) [] = true := by decide

/-- VL24: TPA. -/
theorem test_tpa : vector (start 0x00 0x00 0x0000 0x0000 0x01FF 0x2000 0xF5)
    [0x07] []
    (expect (some 0xF5) (some 0x00) 0x0000 0x0000 0x01FF 0x2001 0xF5 0xFF) [] = true := by decide

/-- VL25: TSX. -/
theorem test_tsx_1 : vector (start 0x00 0x00 0x0000 0x0000 0x01F6 0x2000 0xD0)
    [0x30] []
    (expect (some 0x00) (some 0x00) 0x01F7 0x0000 0x01F6 0x2001 0xD0 0xFF) [] = true := by decide

/-- VL26: TSX wrap. -/
theorem test_tsx_2 : vector (start 0x00 0x00 0x0000 0x0000 0xFFFF 0x2000 0xD0)
    [0x30] []
    (expect (some 0x00) (some 0x00) 0x0000 0x0000 0xFFFF 0x2001 0xD0 0xFF) [] = true := by decide

/-- VL27: TXS. -/
theorem test_txs_1 : vector (start 0x00 0x00 0x0200 0x0000 0x01FF 0x2000 0xD0)
    [0x35] []
    (expect (some 0x00) (some 0x00) 0x0200 0x0000 0x01FF 0x2001 0xD0 0xFF) [] = true := by decide

/-- VL28: TXS wrap. -/
theorem test_txs_2 : vector (start 0x00 0x00 0x0000 0x0000 0x01FF 0x2000 0xD0)
    [0x35] []
    (expect (some 0x00) (some 0x00) 0x0000 0x0000 0xFFFF 0x2001 0xD0 0xFF) [] = true := by decide

/-- VL29: TYS. -/
theorem test_tys : vector (start 0x00 0x00 0x0000 0x1000 0x01FF 0x2000 0xD0)
    [0x18, 0x35] []
    (expect (some 0x00) (some 0x00) 0x0000 0x1000 0x0FFF 0x2002 0xD0 0xFF) [] = true := by decide

/-- VL30: XGDX. -/
theorem test_xgdx : vector (start 0x12 0x34 0xABCD 0x0000 0x01FF 0x2000 0xD0)
    [0x8F] []
    (expect (some 0xAB) (some 0xCD) 0x1234 0x0000 0x01FF 0x2001 0xD0 0xFF) [] = true := by decide

/-- VL31: XGDY. -/
theorem test_xgdy : vector (start 0x12 0x34 0x0000 0xABCD 0x01FF 0x2000 0xD0)
    [0x18, 0x8F] []
    (expect (some 0xAB) (some 0xCD) 0x0000 0x1234 0x01FF 0x2002 0xD0 0xFF) [] = true := by decide

/-- VA1: ADDA IMM. -/
theorem test_adda_1 : vector (start 0x7F 0x00 0x0000 0x0000 0x01FF 0x2000 0xD0)
    [0x8B, 0x01] []
    (expect (some 0x80) (some 0x00) 0x0000 0x0000 0x01FF 0x2002 0xFA 0xFF) [] = true := by decide

/-- VA3: ADDA IMM. -/
theorem test_adda_2 : vector (start 0x80 0x00 0x0000 0x0000 0x01FF 0x2000 0xD0)
    [0x8B, 0x80] []
    (expect (some 0x00) (some 0x00) 0x0000 0x0000 0x01FF 0x2002 0xD7 0xFF) [] = true := by decide

/-- VA4: ADCA IMM. -/
theorem test_adca : vector (start 0xFF 0x00 0x0000 0x0000 0x01FF 0x2000 0xD1)
    [0x89, 0x00] []
    (expect (some 0x00) (some 0x00) 0x0000 0x0000 0x01FF 0x2002 0xF5 0xFF) [] = true := by decide

/-- VA5: ADDB DIR. -/
theorem test_addb : vector (start 0x00 0x01 0x0000 0x0000 0x01FF 0x2000 0xD0)
    [0xDB, 0x10] [(0x0010, [0x0F])]
    (expect (some 0x00) (some 0x10) 0x0000 0x0000 0x01FF 0x2002 0xF0 0xFF) [] = true := by decide

/-- VA6: ABA. -/
theorem test_aba : vector (start 0x08 0x08 0x0000 0x0000 0x01FF 0x2000 0xD0)
    [0x1B] []
    (expect (some 0x10) (some 0x08) 0x0000 0x0000 0x01FF 0x2001 0xF0 0xFF) [] = true := by decide

/-- VA7: ABX. -/
theorem test_abx : vector (start 0x00 0x02 0xFFFF 0x0000 0x01FF 0x2000 0xD0)
    [0x3A] []
    (expect (some 0x00) (some 0x02) 0x0001 0x0000 0x01FF 0x2001 0xD0 0xFF) [] = true := by decide

/-- VA8: ABY. -/
theorem test_aby : vector (start 0x00 0xFF 0x0000 0x1000 0x01FF 0x2000 0xD0)
    [0x18, 0x3A] []
    (expect (some 0x00) (some 0xFF) 0x0000 0x10FF 0x01FF 0x2002 0xD0 0xFF) [] = true := by decide

/-- VA9: ADDD IMM. -/
theorem test_addd_1 : vector (start 0x7F 0xFF 0x0000 0x0000 0x01FF 0x2000 0xD0)
    [0xC3, 0x00, 0x01] []
    (expect (some 0x80) (some 0x00) 0x0000 0x0000 0x01FF 0x2003 0xDA 0xFF) [] = true := by decide

/-- VA10: ADDD IMM. -/
theorem test_addd_2 : vector (start 0xFF 0xFF 0x0000 0x0000 0x01FF 0x2000 0xF0)
    [0xC3, 0x00, 0x01] []
    (expect (some 0x00) (some 0x00) 0x0000 0x0000 0x01FF 0x2003 0xF5 0xFF) [] = true := by decide

/-- VA11: SUBA IMM. -/
theorem test_suba_1 : vector (start 0x00 0x00 0x0000 0x0000 0x01FF 0x2000 0xD0)
    [0x80, 0x01] []
    (expect (some 0xFF) (some 0x00) 0x0000 0x0000 0x01FF 0x2002 0xD9 0xFF) [] = true := by decide

/-- VA12: SUBA IMM. -/
theorem test_suba_2 : vector (start 0x80 0x00 0x0000 0x0000 0x01FF 0x2000 0xD0)
    [0x80, 0x01] []
    (expect (some 0x7F) (some 0x00) 0x0000 0x0000 0x01FF 0x2002 0xD2 0xFF) [] = true := by decide

/-- VA13: SUBB IMM. -/
theorem test_subb : vector (start 0x00 0x20 0x0000 0x0000 0x01FF 0x2000 0xD0)
    [0xC0, 0x20] []
    (expect (some 0x00) (some 0x00) 0x0000 0x0000 0x01FF 0x2002 0xD4 0xFF) [] = true := by decide

/-- VA14: SBCA IMM. -/
theorem test_sbca : vector (start 0x00 0x00 0x0000 0x0000 0x01FF 0x2000 0xD1)
    [0x82, 0x00] []
    (expect (some 0xFF) (some 0x00) 0x0000 0x0000 0x01FF 0x2002 0xD9 0xFF) [] = true := by decide

/-- VA15: SBA. -/
theorem test_sba : vector (start 0x50 0x60 0x0000 0x0000 0x01FF 0x2000 0xD0)
    [0x10] []
    (expect (some 0xF0) (some 0x60) 0x0000 0x0000 0x01FF 0x2001 0xD9 0xFF) [] = true := by decide

/-- VA16: SUBD IMM. -/
theorem test_subd_1 : vector (start 0x80 0x00 0x0000 0x0000 0x01FF 0x2000 0xD0)
    [0x83, 0x00, 0x01] []
    (expect (some 0x7F) (some 0xFF) 0x0000 0x0000 0x01FF 0x2003 0xD2 0xFF) [] = true := by decide

/-- VA17: SUBD IMM. -/
theorem test_subd_2 : vector (start 0x00 0x00 0x0000 0x0000 0x01FF 0x2000 0xD0)
    [0x83, 0x00, 0x01] []
    (expect (some 0xFF) (some 0xFF) 0x0000 0x0000 0x01FF 0x2003 0xD9 0xFF) [] = true := by decide

/-- VA18: CMPA IMM. -/
theorem test_cmpa : vector (start 0x7F 0x00 0x0000 0x0000 0x01FF 0x2000 0xD0)
    [0x81, 0x80] []
    (expect (some 0x7F) (some 0x00) 0x0000 0x0000 0x01FF 0x2002 0xDB 0xFF) [] = true := by decide

/-- VA19: CMPB IMM. -/
theorem test_cmpb : vector (start 0x00 0x05 0x0000 0x0000 0x01FF 0x2000 0xD0)
    [0xC1, 0x05] []
    (expect (some 0x00) (some 0x05) 0x0000 0x0000 0x01FF 0x2002 0xD4 0xFF) [] = true := by decide

/-- VA20: CBA. -/
theorem test_cba : vector (start 0x01 0x02 0x0000 0x0000 0x01FF 0x2000 0xD0)
    [0x11] []
    (expect (some 0x01) (some 0x02) 0x0000 0x0000 0x01FF 0x2001 0xD9 0xFF) [] = true := by decide

/-- VA21: CPX IMM. -/
theorem test_cpx : vector (start 0x00 0x00 0x0FFF 0x0000 0x01FF 0x2000 0xD0)
    [0x8C, 0x10, 0x00] []
    (expect (some 0x00) (some 0x00) 0x0FFF 0x0000 0x01FF 0x2003 0xD9 0xFF) [] = true := by decide

/-- VA22: CPY IMM. -/
theorem test_cpy : vector (start 0x00 0x00 0x0000 0x7FFF 0x01FF 0x2000 0xD0)
    [0x18, 0x8C, 0x80, 0x00] []
    (expect (some 0x00) (some 0x00) 0x0000 0x7FFF 0x01FF 0x2004 0xDB 0xFF) [] = true := by decide

/-- VA23: CPD IMM. -/
theorem test_cpd : vector (start 0x12 0x34 0x0000 0x0000 0x01FF 0x2000 0xD0)
    [0x1A, 0x83, 0x12, 0x34] []
    (expect (some 0x12) (some 0x34) 0x0000 0x0000 0x01FF 0x2004 0xD4 0xFF) [] = true := by decide

/-- VA24: NEGA. -/
theorem test_nega_1 : vector (start 0x80 0x00 0x0000 0x0000 0x01FF 0x2000 0xD0)
    [0x40] []
    (expect (some 0x80) (some 0x00) 0x0000 0x0000 0x01FF 0x2001 0xDB 0xFF) [] = true := by decide

/-- VA25: NEGA. -/
theorem test_nega_2 : vector (start 0x00 0x00 0x0000 0x0000 0x01FF 0x2000 0xD1)
    [0x40] []
    (expect (some 0x00) (some 0x00) 0x0000 0x0000 0x01FF 0x2001 0xD4 0xFF) [] = true := by decide

/-- VA26: NEGB. -/
theorem test_negb : vector (start 0x00 0x01 0x0000 0x0000 0x01FF 0x2000 0xD0)
    [0x50] []
    (expect (some 0x00) (some 0xFF) 0x0000 0x0000 0x01FF 0x2001 0xD9 0xFF) [] = true := by decide

/-- VA27: NEG IND,X. -/
theorem test_neg : vector (start 0x00 0x00 0x0300 0x0000 0x01FF 0x2000 0xD0)
    [0x60, 0x00] [(0x0300, [0x7F])]
    (expect (some 0x00) (some 0x00) 0x0300 0x0000 0x01FF 0x2002 0xD9 0xFF) [(0x0300, [0x81])] = true := by decide

/-- VA28: INCA. -/
theorem test_inca : vector (start 0x7F 0x00 0x0000 0x0000 0x01FF 0x2000 0xD1)
    [0x4C] []
    (expect (some 0x80) (some 0x00) 0x0000 0x0000 0x01FF 0x2001 0xDB 0xFF) [] = true := by decide

/-- VA29: INCB. -/
theorem test_incb : vector (start 0x00 0xFF 0x0000 0x0000 0x01FF 0x2000 0xD0)
    [0x5C] []
    (expect (some 0x00) (some 0x00) 0x0000 0x0000 0x01FF 0x2001 0xD4 0xFF) [] = true := by decide

/-- VA30: INC EXT. -/
theorem test_inc : vector (start 0x00 0x00 0x0000 0x0000 0x01FF 0x2000 0xD0)
    [0x7C, 0x00, 0x80] [(0x0080, [0x00])]
    (expect (some 0x00) (some 0x00) 0x0000 0x0000 0x01FF 0x2003 0xD0 0xFF) [(0x0080, [0x01])] = true := by decide

/-- VA31: DECA. -/
theorem test_deca : vector (start 0x80 0x00 0x0000 0x0000 0x01FF 0x2000 0xD1)
    [0x4A] []
    (expect (some 0x7F) (some 0x00) 0x0000 0x0000 0x01FF 0x2001 0xD3 0xFF) [] = true := by decide

/-- VA32: DECB. -/
theorem test_decb : vector (start 0x00 0x00 0x0000 0x0000 0x01FF 0x2000 0xD0)
    [0x5A] []
    (expect (some 0x00) (some 0xFF) 0x0000 0x0000 0x01FF 0x2001 0xD8 0xFF) [] = true := by decide

/-- VA33: DEC IND,Y. -/
theorem test_dec : vector (start 0x00 0x00 0x0000 0x0400 0x01FF 0x2000 0xD0)
    [0x18, 0x6A, 0x01] [(0x0401, [0x01])]
    (expect (some 0x00) (some 0x00) 0x0000 0x0400 0x01FF 0x2003 0xD4 0xFF) [(0x0401, [0x00])] = true := by decide

/-- VA34: INX. -/
theorem test_inx : vector (start 0x00 0x00 0xFFFF 0x0000 0x01FF 0x2000 0xDB)
    [0x08] []
    (expect (some 0x00) (some 0x00) 0x0000 0x0000 0x01FF 0x2001 0xDF 0xFF) [] = true := by decide

/-- VA35: DEX. -/
theorem test_dex : vector (start 0x00 0x00 0x0000 0x0000 0x01FF 0x2000 0xD4)
    [0x09] []
    (expect (some 0x00) (some 0x00) 0xFFFF 0x0000 0x01FF 0x2001 0xD0 0xFF) [] = true := by decide

/-- VA36: INY. -/
theorem test_iny : vector (start 0x00 0x00 0x0000 0x00FF 0x01FF 0x2000 0xD0)
    [0x18, 0x08] []
    (expect (some 0x00) (some 0x00) 0x0000 0x0100 0x01FF 0x2002 0xD0 0xFF) [] = true := by decide

/-- VA37: DEY. -/
theorem test_dey : vector (start 0x00 0x00 0x0000 0x0001 0x01FF 0x2000 0xD0)
    [0x18, 0x09] []
    (expect (some 0x00) (some 0x00) 0x0000 0x0000 0x01FF 0x2002 0xD4 0xFF) [] = true := by decide

/-- VA38: INS. -/
theorem test_ins : vector (start 0x00 0x00 0x0000 0x0000 0xFFFF 0x2000 0xD0)
    [0x31] []
    (expect (some 0x00) (some 0x00) 0x0000 0x0000 0x0000 0x2001 0xD0 0xFF) [] = true := by decide

/-- VA39: DES. -/
theorem test_des : vector (start 0x00 0x00 0x0000 0x0000 0x0000 0x2000 0xD0)
    [0x34] []
    (expect (some 0x00) (some 0x00) 0x0000 0x0000 0xFFFF 0x2001 0xD0 0xFF) [] = true := by decide

/-- VA40: MUL. -/
theorem test_mul_1 : vector (start 0xFF 0xFF 0x0000 0x0000 0x01FF 0x2000 0xD0)
    [0x3D] []
    (expect (some 0xFE) (some 0x01) 0x0000 0x0000 0x01FF 0x2001 0xD0 0xFF) [] = true := by decide

/-- VA42: MUL. -/
theorem test_mul_2 : vector (start 0x00 0x55 0x0000 0x0000 0x01FF 0x2000 0xD1)
    [0x3D] []
    (expect (some 0x00) (some 0x00) 0x0000 0x0000 0x01FF 0x2001 0xD0 0xFF) [] = true := by decide

/-- VA43: IDIV. -/
theorem test_idiv_1 : vector (start 0xFF 0xFF 0x0001 0x0000 0x01FF 0x2000 0xD2)
    [0x02] []
    (expect (some 0x00) (some 0x00) 0xFFFF 0x0000 0x01FF 0x2001 0xD0 0xFF) [] = true := by decide

/-- VA57: IDIV 100 / 7. -/
theorem test_idiv_2 : vector (start 0x00 0x64 0x0007 0x0000 0x01FF 0x2000 0xD0)
    [0x02] []
    (expect (some 0x00) (some 0x02) 0x000E 0x0000 0x01FF 0x2001 0xD0 0xFF) [] = true := by decide

/-- VA45: FDIV. -/
theorem test_fdiv_1 : vector (start 0x00 0x01 0x0002 0x0000 0x01FF 0x2000 0xD0)
    [0x03] []
    (expect (some 0x00) (some 0x00) 0x8000 0x0000 0x01FF 0x2001 0xD0 0xFF) [] = true := by decide

/-- VA56: FDIV one third. -/
theorem test_fdiv_2 : vector (start 0x00 0x01 0x0003 0x0000 0x01FF 0x2000 0xD0)
    [0x03] []
    (expect (some 0x00) (some 0x01) 0x5555 0x0000 0x01FF 0x2001 0xD0 0xFF) [] = true := by decide

/-- VA47: DAA. -/
theorem test_daa_1 : vector (start 0x9A 0x00 0x0000 0x0000 0x01FF 0x2000 0xD0)
    [0x19] []
    (expect (some 0x00) (some 0x00) 0x0000 0x0000 0x01FF 0x2001 0xD5 0xFD) [] = true := by decide

/-- VA58: DAA outside the table. -/
theorem test_daa_2 : vector (start 0xFF 0x00 0x0000 0x0000 0x01FF 0x2000 0xF1)
    [0x19] []
    (expect none (some 0x00) 0x0000 0x0000 0x01FF 0x2001 0xF0 0xF0) [] = true := by decide

/-- VA50: TSTA. -/
theorem test_tsta : vector (start 0x80 0x00 0x0000 0x0000 0x01FF 0x2000 0xD3)
    [0x4D] []
    (expect (some 0x80) (some 0x00) 0x0000 0x0000 0x01FF 0x2001 0xD8 0xFF) [] = true := by decide

/-- VA51: TSTB. -/
theorem test_tstb : vector (start 0x00 0x00 0x0000 0x0000 0x01FF 0x2000 0xD3)
    [0x5D] []
    (expect (some 0x00) (some 0x00) 0x0000 0x0000 0x01FF 0x2001 0xD4 0xFF) [] = true := by decide

/-- VA52: TST EXT. -/
theorem test_tst : vector (start 0x00 0x00 0x0000 0x0000 0x01FF 0x2000 0xDB)
    [0x7D, 0x30, 0x0A] [(0x300A, [0x7F])]
    (expect (some 0x00) (some 0x00) 0x0000 0x0000 0x01FF 0x2003 0xD0 0xFF) [] = true := by decide

/-- VA59: ADCB DIR, carry chain. -/
theorem test_adcb : vector (start 0x00 0xFF 0x0000 0x0000 0x01FF 0x2000 0xD1)
    [0xD9, 0x10] [(0x0010, [0xFF])]
    (expect (some 0x00) (some 0xFF) 0x0000 0x0000 0x01FF 0x2002 0xF9 0xFF) [] = true := by decide

/-- VA60: SBCB IMM, borrow chain. -/
theorem test_sbcb : vector (start 0x00 0x00 0x0000 0x0000 0x01FF 0x2000 0xD1)
    [0xC2, 0xFF] []
    (expect (some 0x00) (some 0x00) 0x0000 0x0000 0x01FF 0x2002 0xD5 0xFF) [] = true := by decide

/-- VG1: ANDA IMM. -/
theorem test_anda : vector (start 0xF0 0x00 0x0000 0x0000 0x01FF 0x2000 0xD3)
    [0x84, 0x0F] []
    (expect (some 0x00) (some 0x00) 0x0000 0x0000 0x01FF 0x2002 0xD5 0xFF) [] = true := by decide

/-- VG2: ANDB DIR. -/
theorem test_andb : vector (start 0x00 0x80 0x0000 0x0000 0x01FF 0x2000 0xD0)
    [0xD4, 0x20] [(0x0020, [0x81])]
    (expect (some 0x00) (some 0x80) 0x0000 0x0000 0x01FF 0x2002 0xD8 0xFF) [] = true := by decide

/-- VG3: ORAA IMM. -/
theorem test_oraa : vector (start 0x01 0x00 0x0000 0x0000 0x01FF 0x2000 0xD2)
    [0x8A, 0x80] []
    (expect (some 0x81) (some 0x00) 0x0000 0x0000 0x01FF 0x2002 0xD8 0xFF) [] = true := by decide

/-- VG4: ORAB IND,X. -/
theorem test_orab : vector (start 0x00 0x00 0x0500 0x0000 0x01FF 0x2000 0xD1)
    [0xEA, 0x00] [(0x0500, [0x00])]
    (expect (some 0x00) (some 0x00) 0x0500 0x0000 0x01FF 0x2002 0xD5 0xFF) [] = true := by decide

/-- VG5: EORA IMM. -/
theorem test_eora : vector (start 0xFF 0x00 0x0000 0x0000 0x01FF 0x2000 0xD3)
    [0x88, 0xFF] []
    (expect (some 0x00) (some 0x00) 0x0000 0x0000 0x01FF 0x2002 0xD5 0xFF) [] = true := by decide

/-- VG6: EORB IMM. -/
theorem test_eorb : vector (start 0x00 0xAA 0x0000 0x0000 0x01FF 0x2000 0xD0)
    [0xC8, 0x55] []
    (expect (some 0x00) (some 0xFF) 0x0000 0x0000 0x01FF 0x2002 0xD8 0xFF) [] = true := by decide

/-- VG7: BITA IMM. -/
theorem test_bita : vector (start 0x80 0x00 0x0000 0x0000 0x01FF 0x2000 0xD3)
    [0x85, 0x80] []
    (expect (some 0x80) (some 0x00) 0x0000 0x0000 0x01FF 0x2002 0xD9 0xFF) [] = true := by decide

/-- VG8: BITB IMM. -/
theorem test_bitb : vector (start 0x00 0xFE 0x0000 0x0000 0x01FF 0x2000 0xD0)
    [0xC5, 0x01] []
    (expect (some 0x00) (some 0xFE) 0x0000 0x0000 0x01FF 0x2002 0xD4 0xFF) [] = true := by decide

/-- VG9: COMA. -/
theorem test_coma : vector (start 0x00 0x00 0x0000 0x0000 0x01FF 0x2000 0xD0)
    [0x43] []
    (expect (some 0xFF) (some 0x00) 0x0000 0x0000 0x01FF 0x2001 0xD9 0xFF) [] = true := by decide

/-- VG10: COMB. -/
theorem test_comb : vector (start 0x00 0xFF 0x0000 0x0000 0x01FF 0x2000 0xD2)
    [0x53] []
    (expect (some 0x00) (some 0x00) 0x0000 0x0000 0x01FF 0x2001 0xD5 0xFF) [] = true := by decide

/-- VG11: COM EXT. -/
theorem test_com : vector (start 0x00 0x00 0x0000 0x0000 0x01FF 0x2000 0xD0)
    [0x73, 0x00, 0x30] [(0x0030, [0x55])]
    (expect (some 0x00) (some 0x00) 0x0000 0x0000 0x01FF 0x2003 0xD9 0xFF) [(0x0030, [0xAA])] = true := by decide

/-- VG12: ASLA. -/
theorem test_asla_1 : vector (start 0x80 0x00 0x0000 0x0000 0x01FF 0x2000 0xD0)
    [0x48] []
    (expect (some 0x00) (some 0x00) 0x0000 0x0000 0x01FF 0x2001 0xD7 0xFF) [] = true := by decide

/-- VG13: ASLA. -/
theorem test_asla_2 : vector (start 0x40 0x00 0x0000 0x0000 0x01FF 0x2000 0xD0)
    [0x48] []
    (expect (some 0x80) (some 0x00) 0x0000 0x0000 0x01FF 0x2001 0xDA 0xFF) [] = true := by decide

/-- VG14: ASLB. -/
theorem test_aslb : vector (start 0x00 0xC0 0x0000 0x0000 0x01FF 0x2000 0xD0)
    [0x58] []
    (expect (some 0x00) (some 0x80) 0x0000 0x0000 0x01FF 0x2001 0xD9 0xFF) [] = true := by decide

/-- VG15: ASL EXT. -/
theorem test_asl : vector (start 0x00 0x00 0x0000 0x0000 0x01FF 0x2000 0xD1)
    [0x78, 0x00, 0x31] [(0x0031, [0x01])]
    (expect (some 0x00) (some 0x00) 0x0000 0x0000 0x01FF 0x2003 0xD0 0xFF) [(0x0031, [0x02])] = true := by decide

/-- VG16: ASLD. -/
theorem test_asld_1 : vector (start 0x80 0x00 0x0000 0x0000 0x01FF 0x2000 0xD0)
    [0x05] []
    (expect (some 0x00) (some 0x00) 0x0000 0x0000 0x01FF 0x2001 0xD7 0xFF) [] = true := by decide

/-- VG17: ASLD. -/
theorem test_asld_2 : vector (start 0x40 0x80 0x0000 0x0000 0x01FF 0x2000 0xD0)
    [0x05] []
    (expect (some 0x81) (some 0x00) 0x0000 0x0000 0x01FF 0x2001 0xDA 0xFF) [] = true := by decide

/-- VG18: ASRA. -/
theorem test_asra : vector (start 0x81 0x00 0x0000 0x0000 0x01FF 0x2000 0xD0)
    [0x47] []
    (expect (some 0xC0) (some 0x00) 0x0000 0x0000 0x01FF 0x2001 0xD9 0xFF) [] = true := by decide

/-- VG19: ASRB. -/
theorem test_asrb : vector (start 0x00 0x01 0x0000 0x0000 0x01FF 0x2000 0xD0)
    [0x57] []
    (expect (some 0x00) (some 0x00) 0x0000 0x0000 0x01FF 0x2001 0xD7 0xFF) [] = true := by decide

/-- VG20: ASR IND,X. -/
theorem test_asr : vector (start 0x00 0x00 0x0600 0x0000 0x01FF 0x2000 0xD0)
    [0x67, 0x02] [(0x0602, [0x80])]
    (expect (some 0x00) (some 0x00) 0x0600 0x0000 0x01FF 0x2002 0xDA 0xFF) [(0x0602, [0xC0])] = true := by decide

/-- VG21: LSRA. -/
theorem test_lsra : vector (start 0x01 0x00 0x0000 0x0000 0x01FF 0x2000 0xD8)
    [0x44] []
    (expect (some 0x00) (some 0x00) 0x0000 0x0000 0x01FF 0x2001 0xD7 0xFF) [] = true := by decide

/-- VG22: LSRB. -/
theorem test_lsrb : vector (start 0x00 0x80 0x0000 0x0000 0x01FF 0x2000 0xD0)
    [0x54] []
    (expect (some 0x00) (some 0x40) 0x0000 0x0000 0x01FF 0x2001 0xD0 0xFF) [] = true := by decide

/-- VG23: LSRD. -/
theorem test_lsrd_1 : vector (start 0x00 0x01 0x0000 0x0000 0x01FF 0x2000 0xD0)
    [0x04] []
    (expect (some 0x00) (some 0x00) 0x0000 0x0000 0x01FF 0x2001 0xD7 0xFF) [] = true := by decide

/-- VG24: LSRD. -/
theorem test_lsrd_2 : vector (start 0x80 0x00 0x0000 0x0000 0x01FF 0x2000 0xD0)
    [0x04] []
    (expect (some 0x40) (some 0x00) 0x0000 0x0000 0x01FF 0x2001 0xD0 0xFF) [] = true := by decide

/-- VG25: ROLA. -/
theorem test_rola : vector (start 0x80 0x00 0x0000 0x0000 0x01FF 0x2000 0xD1)
    [0x49] []
    (expect (some 0x01) (some 0x00) 0x0000 0x0000 0x01FF 0x2001 0xD3 0xFF) [] = true := by decide

/-- VG26: ROLB. -/
theorem test_rolb : vector (start 0x00 0x40 0x0000 0x0000 0x01FF 0x2000 0xD0)
    [0x59] []
    (expect (some 0x00) (some 0x80) 0x0000 0x0000 0x01FF 0x2001 0xDA 0xFF) [] = true := by decide

/-- VG27: ROL EXT. -/
theorem test_rol : vector (start 0x00 0x00 0x0000 0x0000 0x01FF 0x2000 0xD1)
    [0x79, 0x00, 0x32] [(0x0032, [0x00])]
    (expect (some 0x00) (some 0x00) 0x0000 0x0000 0x01FF 0x2003 0xD0 0xFF) [(0x0032, [0x01])] = true := by decide

/-- VG28: RORA. -/
theorem test_rora : vector (start 0x01 0x00 0x0000 0x0000 0x01FF 0x2000 0xD0)
    [0x46] []
    (expect (some 0x00) (some 0x00) 0x0000 0x0000 0x01FF 0x2001 0xD7 0xFF) [] = true := by decide

/-- VG29: RORB. -/
theorem test_rorb : vector (start 0x00 0x00 0x0000 0x0000 0x01FF 0x2000 0xD1)
    [0x56] []
    (expect (some 0x00) (some 0x80) 0x0000 0x0000 0x01FF 0x2001 0xDA 0xFF) [] = true := by decide

/-- VG30: ROR IND,Y. -/
theorem test_ror : vector (start 0x00 0x00 0x0000 0x0700 0x01FF 0x2000 0xD1)
    [0x18, 0x66, 0x00] [(0x0700, [0x02])]
    (expect (some 0x00) (some 0x00) 0x0000 0x0700 0x01FF 0x2003 0xDA 0xFF) [(0x0700, [0x81])] = true := by decide

/-- VG31: BSET DIR. -/
theorem test_bset_1 : vector (start 0x00 0x00 0x0000 0x0000 0x01FF 0x2000 0xD3)
    [0x14, 0x40, 0x0F] [(0x0040, [0xF0])]
    (expect (some 0x00) (some 0x00) 0x0000 0x0000 0x01FF 0x2003 0xD9 0xFF) [(0x0040, [0xFF])] = true := by decide

/-- VG32: BSET IND,X. -/
theorem test_bset_2 : vector (start 0x00 0x00 0x0100 0x0000 0x01FF 0x2000 0xD0)
    [0x1C, 0x03, 0x80] [(0x0103, [0x00])]
    (expect (some 0x00) (some 0x00) 0x0100 0x0000 0x01FF 0x2003 0xD8 0xFF) [(0x0103, [0x80])] = true := by decide

/-- VG33: BCLR DIR. -/
theorem test_bclr_1 : vector (start 0x00 0x00 0x0000 0x0000 0x01FF 0x2000 0xDB)
    [0x15, 0x40, 0xFF] [(0x0040, [0xA5])]
    (expect (some 0x00) (some 0x00) 0x0000 0x0000 0x01FF 0x2003 0xD5 0xFF) [(0x0040, [0x00])] = true := by decide

/-- VG34: BCLR IND,Y. -/
theorem test_bclr_2 : vector (start 0x00 0x00 0x0000 0x0200 0x01FF 0x2000 0xD0)
    [0x18, 0x1D, 0x00, 0x0F] [(0x0200, [0xFF])]
    (expect (some 0x00) (some 0x00) 0x0000 0x0200 0x01FF 0x2004 0xD8 0xFF) [(0x0200, [0xF0])] = true := by decide

/-- VB1: BRA fwd. -/
theorem test_bra_1 : vector (start 0x00 0x00 0x0000 0x0000 0x01FF 0x2000 0xD0)
    [0x20, 0x10] []
    (expect (some 0x00) (some 0x00) 0x0000 0x0000 0x01FF 0x2012 0xD0 0xFF) [] = true := by decide

/-- VB4: BRA wrap down. -/
theorem test_bra_2 : vector (start 0x00 0x00 0x0000 0x0000 0x01FF 0x0010 0xD0)
    [0x20, 0x80] []
    (expect (some 0x00) (some 0x00) 0x0000 0x0000 0x01FF 0xFF92 0xD0 0xFF) [] = true := by decide

/-- VB5: BRN. -/
theorem test_brn : vector (start 0x00 0x00 0x0000 0x0000 0x01FF 0x2000 0xD0)
    [0x21, 0x7F] []
    (expect (some 0x00) (some 0x00) 0x0000 0x0000 0x01FF 0x2002 0xD0 0xFF) [] = true := by decide

/-- VB6: BCC taken. -/
theorem test_bcc_1 : vector (start 0x00 0x00 0x0000 0x0000 0x01FF 0x2000 0xD0)
    [0x24, 0x04] []
    (expect (some 0x00) (some 0x00) 0x0000 0x0000 0x01FF 0x2006 0xD0 0xFF) [] = true := by decide

/-- VB7: BCC not. -/
theorem test_bcc_2 : vector (start 0x00 0x00 0x0000 0x0000 0x01FF 0x2000 0xD1)
    [0x24, 0x04] []
    (expect (some 0x00) (some 0x00) 0x0000 0x0000 0x01FF 0x2002 0xD1 0xFF) [] = true := by decide

/-- VB8: BCS taken. -/
theorem test_bcs : vector (start 0x00 0x00 0x0000 0x0000 0x01FF 0x2000 0xD1)
    [0x25, 0x04] []
    (expect (some 0x00) (some 0x00) 0x0000 0x0000 0x01FF 0x2006 0xD1 0xFF) [] = true := by decide

/-- VB9: BEQ taken. -/
theorem test_beq : vector (start 0x00 0x00 0x0000 0x0000 0x01FF 0x2000 0xD4)
    [0x27, 0xFC] []
    (expect (some 0x00) (some 0x00) 0x0000 0x0000 0x01FF 0x1FFE 0xD4 0xFF) [] = true := by decide

/-- VB10: BNE not. -/
theorem test_bne : vector (start 0x00 0x00 0x0000 0x0000 0x01FF 0x2000 0xD4)
    [0x26, 0xFC] []
    (expect (some 0x00) (some 0x00) 0x0000 0x0000 0x01FF 0x2002 0xD4 0xFF) [] = true := by decide

/-- VB11: BMI taken. -/
theorem test_bmi : vector (start 0x00 0x00 0x0000 0x0000 0x01FF 0x2000 0xD8)
    [0x2B, 0x02] []
    (expect (some 0x00) (some 0x00) 0x0000 0x0000 0x01FF 0x2004 0xD8 0xFF) [] = true := by decide

/-- VB12: BPL not. -/
theorem test_bpl : vector (start 0x00 0x00 0x0000 0x0000 0x01FF 0x2000 0xD8)
    [0x2A, 0x02] []
    (expect (some 0x00) (some 0x00) 0x0000 0x0000 0x01FF 0x2002 0xD8 0xFF) [] = true := by decide

/-- VB13: BVS taken. -/
theorem test_bvs : vector (start 0x00 0x00 0x0000 0x0000 0x01FF 0x2000 0xD2)
    [0x29, 0x02] []
    (expect (some 0x00) (some 0x00) 0x0000 0x0000 0x01FF 0x2004 0xD2 0xFF) [] = true := by decide

/-- VB14: BVC not. -/
theorem test_bvc : vector (start 0x00 0x00 0x0000 0x0000 0x01FF 0x2000 0xD2)
    [0x28, 0x02] []
    (expect (some 0x00) (some 0x00) 0x0000 0x0000 0x01FF 0x2002 0xD2 0xFF) [] = true := by decide

/-- VB15: BGE taken (N=V=1). -/
theorem test_bge_1 : vector (start 0x00 0x00 0x0000 0x0000 0x01FF 0x2000 0xDA)
    [0x2C, 0x05] []
    (expect (some 0x00) (some 0x00) 0x0000 0x0000 0x01FF 0x2007 0xDA 0xFF) [] = true := by decide

/-- VB16: BGE not (N=1,V=0). -/
theorem test_bge_2 : vector (start 0x00 0x00 0x0000 0x0000 0x01FF 0x2000 0xD8)
    [0x2C, 0x05] []
    (expect (some 0x00) (some 0x00) 0x0000 0x0000 0x01FF 0x2002 0xD8 0xFF) [] = true := by decide

/-- VB17: BLT taken (N=0,V=1). -/
theorem test_blt : vector (start 0x00 0x00 0x0000 0x0000 0x01FF 0x2000 0xD2)
    [0x2D, 0x05] []
    (expect (some 0x00) (some 0x00) 0x0000 0x0000 0x01FF 0x2007 0xD2 0xFF) [] = true := by decide

/-- VB18: BGT not (Z=1). -/
theorem test_bgt_1 : vector (start 0x00 0x00 0x0000 0x0000 0x01FF 0x2000 0xD4)
    [0x2E, 0x05] []
    (expect (some 0x00) (some 0x00) 0x0000 0x0000 0x01FF 0x2002 0xD4 0xFF) [] = true := by decide

/-- VB19: BGT taken. -/
theorem test_bgt_2 : vector (start 0x00 0x00 0x0000 0x0000 0x01FF 0x2000 0xDA)
    [0x2E, 0x05] []
    (expect (some 0x00) (some 0x00) 0x0000 0x0000 0x01FF 0x2007 0xDA 0xFF) [] = true := by decide

/-- VB20: BLE taken (Z=1). -/
theorem test_ble_1 : vector (start 0x00 0x00 0x0000 0x0000 0x01FF 0x2000 0xD4)
    [0x2F, 0x05] []
    (expect (some 0x00) (some 0x00) 0x0000 0x0000 0x01FF 0x2007 0xD4 0xFF) [] = true := by decide

/-- VB22: BLE not. -/
theorem test_ble_2 : vector (start 0x00 0x00 0x0000 0x0000 0x01FF 0x2000 0xD0)
    [0x2F, 0x05] []
    (expect (some 0x00) (some 0x00) 0x0000 0x0000 0x01FF 0x2002 0xD0 0xFF) [] = true := by decide

/-- VB23: BHI taken. -/
theorem test_bhi_1 : vector (start 0x00 0x00 0x0000 0x0000 0x01FF 0x2000 0xD0)
    [0x22, 0x05] []
    (expect (some 0x00) (some 0x00) 0x0000 0x0000 0x01FF 0x2007 0xD0 0xFF) [] = true := by decide

/-- VB24: BHI not (Z=1). -/
theorem test_bhi_2 : vector (start 0x00 0x00 0x0000 0x0000 0x01FF 0x2000 0xD4)
    [0x22, 0x05] []
    (expect (some 0x00) (some 0x00) 0x0000 0x0000 0x01FF 0x2002 0xD4 0xFF) [] = true := by decide

/-- VB25: BLS taken (C=1). -/
theorem test_bls_1 : vector (start 0x00 0x00 0x0000 0x0000 0x01FF 0x2000 0xD1)
    [0x23, 0x05] []
    (expect (some 0x00) (some 0x00) 0x0000 0x0000 0x01FF 0x2007 0xD1 0xFF) [] = true := by decide

/-- VB26: BLS not. -/
theorem test_bls_2 : vector (start 0x00 0x00 0x0000 0x0000 0x01FF 0x2000 0xD0)
    [0x23, 0x05] []
    (expect (some 0x00) (some 0x00) 0x0000 0x0000 0x01FF 0x2002 0xD0 0xFF) [] = true := by decide

/-- VB27: BRSET DIR taken. -/
theorem test_brset_1 : vector (start 0x00 0x00 0x0000 0x0000 0x01FF 0x2000 0xD0)
    [0x12, 0x40, 0x81, 0x05] [(0x0040, [0xC3])]
    (expect (some 0x00) (some 0x00) 0x0000 0x0000 0x01FF 0x2009 0xD0 0xFF) [] = true := by decide

/-- VB29: BRSET mask 0 (always). -/
theorem test_brset_2 : vector (start 0x00 0x00 0x0000 0x0000 0x01FF 0x2000 0xD0)
    [0x12, 0x40, 0x00, 0x05] [(0x0040, [0x00])]
    (expect (some 0x00) (some 0x00) 0x0000 0x0000 0x01FF 0x2009 0xD0 0xFF) [] = true := by decide

/-- VB30: BRCLR IND,X taken. -/
theorem test_brclr_1 : vector (start 0x00 0x00 0x0100 0x0000 0x01FF 0x2000 0xD0)
    [0x1F, 0x02, 0x0C, 0x05] [(0x0102, [0xF3])]
    (expect (some 0x00) (some 0x00) 0x0100 0x0000 0x01FF 0x2009 0xD0 0xFF) [] = true := by decide

/-- VB32: BRCLR IND,Y taken back. -/
theorem test_brclr_2 : vector (start 0x00 0x00 0x0000 0x0300 0x01FF 0x2000 0xD0)
    [0x18, 0x1F, 0x00, 0x80, 0xF0] [(0x0300, [0x7F])]
    (expect (some 0x00) (some 0x00) 0x0000 0x0300 0x01FF 0x1FF5 0xD0 0xFF) [] = true := by decide

/-- VB33: JMP EXT. -/
theorem test_jmp_1 : vector (start 0x00 0x00 0x0000 0x0000 0x01FF 0x2000 0xD0)
    [0x7E, 0xC0, 0x00] []
    (expect (some 0x00) (some 0x00) 0x0000 0x0000 0x01FF 0xC000 0xD0 0xFF) [] = true := by decide

/-- VB35: JMP IND,Y. -/
theorem test_jmp_2 : vector (start 0x00 0x00 0x0000 0xFF80 0x01FF 0x2000 0xD0)
    [0x18, 0x6E, 0xFF] []
    (expect (some 0x00) (some 0x00) 0x0000 0xFF80 0x01FF 0x007F 0xD0 0xFF) [] = true := by decide

/-- VB36: JSR DIR. -/
theorem test_jsr_1 : vector (start 0x00 0x00 0x0000 0x0000 0x01FF 0x2000 0xD0)
    [0x9D, 0x80] []
    (expect (some 0x00) (some 0x00) 0x0000 0x0000 0x01FD 0x0080 0xD0 0xFF) [(0x01FE, [0x20, 0x02])] = true := by decide

/-- VB37: JSR IND,Y. -/
theorem test_jsr_2 : vector (start 0x00 0x00 0x0000 0x4000 0x01FF 0x2000 0xD0)
    [0x18, 0xAD, 0x10] []
    (expect (some 0x00) (some 0x00) 0x0000 0x4000 0x01FD 0x4010 0xD0 0xFF) [(0x01FE, [0x20, 0x03])] = true := by decide

/-- VB38: BSR back. -/
theorem test_bsr : vector (start 0x00 0x00 0x0000 0x0000 0x01FF 0x2000 0xD0)
    [0x8D, 0xFE] []
    (expect (some 0x00) (some 0x00) 0x0000 0x0000 0x01FD 0x2000 0xD0 0xFF) [(0x01FE, [0x20, 0x02])] = true := by decide

/-- VB39: RTS. -/
theorem test_rts : vector (start 0x00 0x00 0x0000 0x0000 0x01FD 0x2000 0xD0)
    [0x39] [(0x01FE, [0x12, 0x34])]
    (expect (some 0x00) (some 0x00) 0x0000 0x0000 0x01FF 0x1234 0xD0 0xFF) [] = true := by decide

/-- VS1: CLC. -/
theorem test_clc : vector (start 0x00 0x00 0x0000 0x0000 0x01FF 0x2000 0xD1)
    [0x0C] []
    (expect (some 0x00) (some 0x00) 0x0000 0x0000 0x01FF 0x2001 0xD0 0xFF) [] = true := by decide

/-- VS2: SEC. -/
theorem test_sec : vector (start 0x00 0x00 0x0000 0x0000 0x01FF 0x2000 0x00)
    [0x0D] []
    (expect (some 0x00) (some 0x00) 0x0000 0x0000 0x01FF 0x2001 0x01 0xFF) [] = true := by decide

/-- VS3: CLV. -/
theorem test_clv : vector (start 0x00 0x00 0x0000 0x0000 0x01FF 0x2000 0xD2)
    [0x0A] []
    (expect (some 0x00) (some 0x00) 0x0000 0x0000 0x01FF 0x2001 0xD0 0xFF) [] = true := by decide

/-- VS4: SEV. -/
theorem test_sev : vector (start 0x00 0x00 0x0000 0x0000 0x01FF 0x2000 0xD0)
    [0x0B] []
    (expect (some 0x00) (some 0x00) 0x0000 0x0000 0x01FF 0x2001 0xD2 0xFF) [] = true := by decide

/-- VS5: CLI. -/
theorem test_cli : vector (start 0x00 0x00 0x0000 0x0000 0x01FF 0x2000 0xD0)
    [0x0E] []
    (expect (some 0x00) (some 0x00) 0x0000 0x0000 0x01FF 0x2001 0xC0 0xFF) [] = true := by decide

/-- VS6: SEI. -/
theorem test_sei : vector (start 0x00 0x00 0x0000 0x0000 0x01FF 0x2000 0x00)
    [0x0F] []
    (expect (some 0x00) (some 0x00) 0x0000 0x0000 0x01FF 0x2001 0x10 0xFF) [] = true := by decide

/-- VS7: NOP. -/
theorem test_nop : vector (start 0x00 0x00 0x0000 0x0000 0x01FF 0x2000 0xD0)
    [0x01] []
    (expect (some 0x00) (some 0x00) 0x0000 0x0000 0x01FF 0x2001 0xD0 0xFF) [] = true := by decide

/-- VS8: RTI, X = 1 and stacked X = 0: X cleared. -/
theorem test_rti_1 : vector (start 0x00 0x00 0x0000 0x0000 0x01F6 0x2000 0xD0)
    [0x3B] [(0x01F7, [0x00, 0xAA, 0xBB, 0x12, 0x34, 0x56, 0x78, 0xC0, 0x00])]
    (expect (some 0xBB) (some 0xAA) 0x1234 0x5678 0x01FF 0xC000 0x00 0xFF) [] = true := by decide +kernel

/-- VS10: RTI, X = 0 and stacked X = 1: X stays 0. -/
theorem test_rti_2 : vector (start 0x00 0x00 0x0000 0x0000 0x01F6 0x2000 0x10)
    [0x3B] [(0x01F7, [0xFF, 0xAA, 0xBB, 0x12, 0x34, 0x56, 0x78, 0xC0, 0x00])]
    (expect (some 0xBB) (some 0xAA) 0x1234 0x5678 0x01FF 0xC000 0xBF 0xFF) [] = true := by decide +kernel

/-- VS11: SWI. -/
theorem test_swi_1 : vector (start 0x11 0x22 0x3344 0x5566 0x01FF 0x2000 0x05)
    [0x3F] [(0xFFF6, [0xE0, 0x00])]
    (expect (some 0x11) (some 0x22) 0x3344 0x5566 0x01F6 0xE000 0x15 0xFF) [(0x01F7, [0x05, 0x22, 0x11, 0x33, 0x44, 0x55, 0x66, 0x20, 0x01])] = true := by decide

/-- VS12: SWI special mode. -/
theorem test_swi_2 : vector (special 0x00 0x00 0x0000 0x0000 0x00FF 0x2000 0xD0)
    [0x3F] [(0xBFF6, [0x00, 0xC4])]
    (expect (some 0x00) (some 0x00) 0x0000 0x0000 0x00F6 0x00C4 0xD0 0xFF) [] = true := by decide

/-- VS13: illegal $41. -/
theorem test_illegal_1 : vector (start 0x00 0x00 0x0000 0x0000 0x01FF 0x2000 0xC0)
    [0x41] [(0xFFF8, [0xE1, 0x00])]
    (expect (some 0x00) (some 0x00) 0x0000 0x0000 0x01F6 0xE100 0xD0 0xFF) [(0x01F7, [0xC0, 0x00, 0x00, 0x00, 0x00, 0x00, 0x00, 0x20, 0x00])] = true := by decide

/-- VS16: illegal 1A 8C. -/
theorem test_illegal_2 : vector (start 0x00 0x00 0x0000 0x0000 0x01FF 0x2000 0xD0)
    [0x1A, 0x8C] [(0xFFF8, [0xE1, 0x00])]
    (expect (some 0x00) (some 0x00) 0x0000 0x0000 0x01F6 0xE100 0xD0 0xFF) [(0x01FE, [0x20, 0x00])] = true := by decide

/-- VS17: TEST normal mode. -/
theorem test_test : vector (start 0x00 0x00 0x0000 0x0000 0x01FF 0x2000 0xD0)
    [0x00] [(0xFFF8, [0xE1, 0x00])]
    (expect (some 0x00) (some 0x00) 0x0000 0x0000 0x01F6 0xE100 0xD0 0xFF) [(0x01FE, [0x20, 0x00])] = true := by decide

/-- VS18: STOP S=1. -/
theorem test_stop : vector (start 0x00 0x00 0x0000 0x0000 0x01FF 0x2000 0xD0)
    [0xCF] []
    (expect (some 0x00) (some 0x00) 0x0000 0x0000 0x01FF 0x2001 0xD0 0xFF) [] = true := by decide

/-- VS19: WAI. -/
theorem test_wai : vector (start 0x01 0x02 0x0304 0x0506 0x01FF 0x2000 0xC0)
    [0x3E] []
    (expect (some 0x01) (some 0x02) 0x0304 0x0506 0x01F6 0x2001 0xC0 0xFF) [(0x01F7, [0xC0, 0x02, 0x01, 0x03, 0x04, 0x05, 0x06, 0x20, 0x01])] = true := by decide

/-- R202's example. -/
theorem test_clrb : vector (start 0x00 0x77 0x0000 0x0000 0x01FF 0x2000 0xD1)
    [0x5F] []
    (expect (some 0x00) (some 0x00) 0x0000 0x0000 0x01FF 0x2001 0xD4 0xFF) [] = true := by decide

/-- R212's example. -/
theorem test_pshy : vector (start 0x00 0x00 0x0000 0xBEEF 0x01FF 0x2000 0xD0)
    [0x18, 0x3C] []
    (expect (some 0x00) (some 0x00) 0x0000 0xBEEF 0x01FD 0x2002 0xD0 0xFF) [(0x01FE, [0xBE, 0xEF])] = true := by decide

/-- R214's example: SP wraps. -/
theorem test_pulb : vector (start 0x00 0x00 0x0000 0x0000 0xFFFF 0x2000 0xD0)
    [0x33] [(0x0000, [0x99])]
    (expect (some 0x00) (some 0x99) 0x0000 0x0000 0x0000 0x2001 0xD0 0xFF) [] = true := by decide

/-- R218's example: the indexed address is $007F. -/
theorem test_stab : vector (start 0x00 0x80 0xFF80 0x0000 0x01FF 0x2000 0xD0)
    [0xE7, 0xFF] []
    (expect (some 0x00) (some 0x80) 0xFF80 0x0000 0x01FF 0x2002 0xD8 0xFF) [(0x007F, [0x80])] = true := by decide

/-- R220's example: SP itself is stored. -/
theorem test_sts : vector (start 0x00 0x00 0x0000 0x0000 0x01FF 0x2000 0xD0)
    [0xBF, 0x01, 0x00] []
    (expect (some 0x00) (some 0x00) 0x0000 0x0000 0x01FF 0x2003 0xD0 0xFF) [(0x0100, [0x01, 0xFF])] = true := by decide

/-- R228's example: IY wraps. -/
theorem test_tsy : vector (start 0x00 0x00 0x0000 0x1234 0xFFFF 0x2000 0xD0)
    [0x18, 0x30] []
    (expect (some 0x00) (some 0x00) 0x0000 0x0000 0xFFFF 0x2002 0xD0 0xFF) [] = true := by decide

/-- R344's example: N is cleared. -/
theorem test_lsr : vector (start 0x00 0x00 0x0000 0x0000 0x01FF 0x2000 0xD8)
    [0x74, 0x01, 0x00] [(0x0100, [0x01])]
    (expect (some 0x00) (some 0x00) 0x0000 0x0000 0x01FF 0x2003 0xD7 0xFF) [(0x0100, [0x00])] = true := by decide

/-! Ill-formed terms. -/

/-- The forms Table 1 does not have, one for each check: DIR for the read-modify-write instructions, CLR, TST and JMP
(R173 and the rule of each). -/
theorem test_illFormed_dir_refused :
    [Instr.clr (.dir 0x10), .dec (.dir 0x10), .inc (.dir 0x10), .neg (.dir 0x10), .tst (.dir 0x10), .asl (.dir 0x10),
      .asr (.dir 0x10), .com (.dir 0x10), .lsr (.dir 0x10), .rol (.dir 0x10), .ror (.dir 0x10), .jmp (.dir 0x10)].all
      (fun i => !i.wellFormed) = true := by decide

/-- EXT for BSET, BCLR, BRSET and BRCLR (R179). -/
theorem test_illFormed_ext_refused :
    [Instr.bset (.ext 0x0010) 1, .bclr (.ext 0x0010) 1, .brset (.ext 0x0010) 1 2, .brclr (.ext 0x0010) 1 2].all
      (fun i => !i.wellFormed) = true := by decide

/-- Undefined opcodes are rejected by name (R185, R186). -/
theorem test_decode_rejects : decode [0x41] = .error (.undefinedOpcode .page1 0x41) ∧
    decode [0x18, 0x00] = .error (.undefinedOpcode .page2 0x00) ∧ decode [0x1A, 0x8C] = .error (.undefinedOpcode .page3 0x8C) ∧
    decode [0xCD, 0x00] = .error (.undefinedOpcode .page4 0x00) ∧ decode [0x86] = .error .truncated := ⟨rfl, rfl, rfl, rfl, rfl⟩

/-! The interface the host uses: bit 0 of a table word is the least significant bit of its first byte. -/

theorem test_decodeTableWord : decodeTableWord 16 0x7FA6 = some (.ldaa (.mem (.indX 0x7F))) ∧
    decodeTableWord 32 0x3412FF18 = some (.sty (.ext 0x1234)) ∧ decodeTableWord 8 0x41 = none := ⟨rfl, rfl, rfl⟩

/-- The word is placed at PC and the next step runs it. -/
theorem test_withFetchWord : nextIs (step (State.reset.withFetchWord 16 0x5A86)) (fun t => t.cpu.a == 0x5A && t.cpu.pc == 2) = true := by
  decide

/-! Interrupts (VE1 to VE10). -/

/-- The state of VE1 with a CCR, the levels of IRQ and XIRQ, a NOP at $2002 and the vectors. -/
def interrupted (ccr : Byte) (irq xirq : Bool) : State :=
  let s := fill (start 0x11 0x22 0x3344 0x5566 0x01FF 0x2002 ccr) [(0x2002, [0x01]), (0xFFF2, [0xD0, 0x00, 0xD1, 0x00])]
  s.setPins { s.pins with irq := irq, xirq := xirq }

theorem test_irq_entry :
    nextIs (step (interrupted 0xC1 false true)) (fun t =>
      expect (some 0x11) (some 0x22) 0x3344 0x5566 0x01F6 0xD000 0xD1 0xFF t &&
        holds t 0x01F7 [0xC1, 0x22, 0x11, 0x33, 0x44, 0x55, 0x66, 0x20, 0x02] && t.io.sys.cycles == 14) = true := by
  decide +kernel

theorem test_irq_masked :
    nextIs (step (interrupted 0xD1 false true)) (fun t => t.cpu.pc == 0x2003 && t.cpu.sp == 0x01FF) = true := by decide

theorem test_xirq_entry_although_masked :
    nextIs (step (interrupted 0x91 true false)) (fun t =>
      t.cpu.pc == 0xD100 && t.cpu.ccr.toByte == 0xD1 && holds t 0x01F7 [0x91]) = true := by decide

theorem test_xirq_before_irq :
    nextIs (step (interrupted 0x81 false false)) (fun t => t.cpu.pc == 0xD100 && t.cpu.ccr.toByte == 0xD1) = true := by decide

/-- The state of VE7: OC1F and TOF pending. -/
def twoPending (psel : Byte) : State :=
  let s := fill (start 0 0 0 0 0x01FF 0x2000 0xC0) [(0xFFDE, [0xD2, 0x00]), (0xFFE8, [0xD3, 0x00])]
  let s := s.setTimer { s.io.timer with tflg1 := 0x80, tmsk1 := 0x80, tflg2 := 0x80, tmsk2 := 0x80 }
  s.setSys { s.io.sys with hprio := 0x20 ||| psel }

theorem test_fixed_priority :
    nextIs (step (twoPending 0x06)) (fun t => t.cpu.pc == 0xD300 && bit t.io.timer.tflg2 7) = true := by decide

theorem test_promoted_priority : nextIs (step (twoPending 0x00)) (fun t => t.cpu.pc == 0xD200) = true := by decide

/-- VE6: a timer overflow ends the wait state without a second stacking. -/
theorem test_overflow_ends_wait :
    let s := fill (start 1 2 0x0304 0x0506 0x01F6 0x2001 0xC0) [(0xFFDE, [0xD2, 0x00])]
    let s := (s.setTimer { s.io.timer with tmsk2 := 0x80, tflg2 := 0x80 }).setRun .waiting
    nextIs (step s) (fun t => t.cpu.pc == 0xD200 && t.cpu.sp == 0x01F6 && t.cpu.ccr.toByte == 0xD0 && t.cpu.run == .running) =
      true := by decide

/-- VE10: the illegal opcode trap in a special mode. -/
theorem test_illegal_special_mode :
    let s := fill (special 0 0 0 0 0x00FF 0x0000 0xD0) [(0x0000, [0x41]), (0xBFF8, [0x00, 0xC7])]
    nextIs (step s) (fun t => t.cpu.pc == 0x00C7 && t.cpu.sp == 0x00F6 && holds t 0x00F7 [0xD0, 0, 0, 0, 0, 0, 0, 0, 0]) = true := by
  decide +kernel

/-! Reset (VR1 to VR5). -/

/-- A due reset with the mode pins and CONFIG cells. -/
def resetting (modB modA : Bool) (cells : Byte) (k : ResetKind) : State :=
  let s := State.reset
  let s := { s with params := { s.params with configNv := cells }, pins := { s.pins with modA := modA, modB := modB } }
  let s := { s with
    mem := { s.mem with rom := [(0xFFFA, 0xE1), (0xFFFC, 0xE2), (0xFFFE, 0xE0)], bootRom := [(0xBFFE, 0xBF), (0xBFFF, 0x40)] } }
  s.setSys { s.io.sys with pendingReset := some k }

theorem test_reset_single_chip :
    nextIs (step (resetting true false 0x0F .pin)) (fun t =>
      t.io.sys.hprio == 0x06 && t.io.sys.init == 0x01 && t.io.sys.config == 0x0F && t.cpu.pc == 0xE000 && t.cpu.ccr.s &&
        t.cpu.ccr.x && t.cpu.ccr.i && t.io.timer.tcnt == 0 && t.io.sys.cycles == 0 && t.cpu.run == .running) = true := by decide

theorem test_reset_bootstrap :
    nextIs (step (resetting false false 0x0F .pin)) (fun t => t.io.sys.hprio == 0xC6 && t.cpu.pc == 0xBF40) = true := by decide

theorem test_reset_cop_vector :
    nextIs (step (resetting true false 0x0B .cop)) (fun t => t.cpu.pc == 0xE100) = true := by decide

theorem test_reset_clock_monitor_vector :
    nextIs (step (resetting true false 0x0F .clockMonitor)) (fun t => t.cpu.pc == 0xE200) = true := by decide

/-- VR5, and the modes of R495: special test and expanded. -/
theorem test_reset_registers :
    nextIs (step (resetting false true 0x0F .pin)) (fun t =>
      t.io.sys.hprio == 0x76 && t.io.ports.portb == 0 && t.io.ports.ddrc == 0 && t.io.ports.ddrd == 0 &&
        t.io.timer.toc1 == 0xFFFF && t.io.timer.ti4o5 == 0xFFFF && t.io.timer.tctl1 == 0 && t.io.timer.tmsk1 == 0 &&
        t.io.timer.tflg1 == 0 && t.io.timer.pactl == 0 && t.io.spi.spcr &&& 0xFC == 0x04 && t.io.spi.spsr == 0 &&
        t.io.sci.sccr2 == 0 && t.io.sci.scsr == 0xC0 && t.io.sys.option == 0x10 && t.io.sys.bprot == 0x1F &&
        t.io.sys.pprog == 0 && t.io.ports.pioc &&& 0xFB == 0x03) = true := by decide

/-! The map and the registers (VM1 to VM11). -/

/-- VM1: the map of the MC68HC11E9 in single chip mode. -/
theorem test_default_map :
    let s := State.reset.setSys { State.reset.io.sys with hprio := 0x06, config := 0x0F }
    [0x0000, 0x01FF, 0x0200, 0x1000, 0x103F, 0x1040, 0xB600, 0xB7FF, 0xB800, 0xCFFF, 0xD000, 0xFFFF].map (resolve s) =
      [.ram 0, .ram 0x1FF, .nothing, .register 0, .register 0x3F, .nothing, .eeprom 0, .eeprom 0x1FF, .nothing, .nothing,
        .rom 0xD000, .rom 0xFFFF] := by decide

/-- The default state with bytes at PC and A loaded. -/
def running (a : Byte) (code : List Byte) : State := (start a 0 0x1000 0 0x01FF 0x2000 0xD0).placeAll 0x2000 code

/-- VM2: INIT moves RAM and the registers. -/
theorem test_init_in_window :
    nextIs (step (running 0x20 [0xB7, 0x10, 0x3D])) (fun t =>
      resolve t 0x2000 == .ram 0 && resolve t 0x003D == .register 0x3D && peek t 0x003D == 0x20) = true := by decide

/-- VM3: nothing after the window. -/
theorem test_init_after_window :
    let s := running 0x20 [0xB7, 0x10, 0x3D]
    nextIs (step (s.setSys { s.io.sys with cycles := 64 })) (fun t => t.io.sys.init == 0x01) = true := by decide

/-- VM6 to VM8: a write of 1 clears a flag, and what BSET and BCLR do to a flag register. -/
theorem test_flag_registers_clear_ones :
    let flags (s : State) : State := s.setTimer { s.io.timer with tflg2 := 0xC0 }
    nextIs (step (flags (running 0x80 [0xB7, 0x10, 0x25]))) (fun t => t.io.timer.tflg2 == 0x40) = true ∧
      nextIs (step (flags (running 0x00 [0x1C, 0x25, 0x80]))) (fun t => t.io.timer.tflg2 == 0x00) = true ∧
      nextIs (step (flags (running 0x00 [0x1D, 0x25, 0x7F]))) (fun t => t.io.timer.tflg2 == 0x40) = true := by decide

/-- VM9: SCSR, then SCDR. -/
theorem test_rdrf_two_step_clear :
    let s := running 0x00 [0xB6, 0x10, 0x2E, 0xB6, 0x10, 0x2F]
    let s := s.setSci { s.io.sci with scsr := 0xE0, rx := 0x5A }
    nextIs (step s) (fun t => t.cpu.a == 0xE0 && nextIs (step t) fun u => u.cpu.a == 0x5A && u.io.sci.scsr == 0xC0) = true := by
  decide

/-- VM10: a transfer of 16 cycles. -/
theorem test_spi_transfer :
    let s := running 0x77 [0xB7, 0x10, 0x2A]
    let s := s.setSpi { s.io.spi with spcr := 0x50 }
    nextIs (exec (.staa (.ext 0x102A)) s) (fun t =>
      !bit (advance 15 t).io.spi.spsr 7 && bit (advance 16 t).io.spi.spsr 7) = true := by decide

/-- VM11: a write to ROM. -/
theorem test_write_to_rom :
    let s := running 0x77 [0xB7, 0xE0, 0x00]
    nextIs (step (s.setSys { s.io.sys with config := 0x0E })) (fun t => t.mem == s.mem && t.cpu.pc == 0x2003) = true := by decide

/-! Time (VT2 to VT6). -/

theorem test_tcnt_prescaled :
    (advance 1000 (plain.setTimer { plain.io.timer with tmsk2 := 0x03 })).io.timer.tcnt = 0x003E := by decide

theorem test_first_overflow_and_compare :
    (advance 65534 plain).io.timer.tflg1 = 0x00 ∧ (advance 65535 plain).io.timer.tflg1 = 0xF8 ∧
      bit (advance 65535 plain).io.timer.tflg2 7 = false ∧ bit (advance 65536 plain).io.timer.tflg2 7 = true := by decide

theorem test_rti_period :
    let s := plain.setTimer { plain.io.timer with pactl := 0x01 }
    bit (advance 16383 s).io.timer.tflg2 6 = false ∧ bit (advance 16384 s).io.timer.tflg2 6 = true := by decide

theorem test_cop_window :
    let s := plain.setSys { plain.io.sys with config := 0x08 }
    (advance 32767 s).io.sys.pendingReset = none ∧ (advance 65536 s).io.sys.pendingReset = some .cop := by decide

/-- The vectors of the SPI clock rates (S9) and of the SCI rates (S8), E being 2 MHz. -/
theorem test_serial_rates :
    ([0x00, 0x01, 0x02, 0x03] : List Byte).map spiTransferCycles = [16, 32, 128, 256] ∧
      ([0x00, 0x10, 0x20, 0x30, 0x34] : List Byte).map (fun v => sciBitRate State.reset.params v 0) =
        [125000, 41666, 31250, 9615, 600] := by decide

/-- STOP with S = 0 stops the CPU and changes nothing else (notes to VS18). -/
theorem test_stop_stops :
    let s := (start 0 0 0 0 0x01FF 0x2000 0x50).placeAll 0x2000 [0xCF]
    nextIs (step s) (fun t => t.cpu.run == .stopped && t.cpu.pc == 0x2001 && t.cpu.ccr.toByte == 0x50) = true := by decide

/-- TEST in a special mode never completes (R420). -/
theorem test_test_special :
    nextIs (step ((special 0 0 0 0 0x01FF 0x2000 0xD0).placeAll 0x2000 [0x00])) (fun t => t.cpu.run == .testing) = true := by decide

/-! Between the accesses of one instruction. -/

/-- A reset between the two stores of PSHX: the low byte is stored and the high byte is not (R490). -/
theorem test_reset_between_stores :
    let s := { (start 0 0 0x1234 0 0x01FF 0x2000 0xD0).placeAll 0x2000 [0x3C] with inputs := [[], [], [.resetPin]] }
    nextIs (step s) (fun t => t.io.sys.pendingReset == some .pin && peek t 0x01FF == 0x34 && peek t 0x01FE == peek s 0x01FE) =
      true := by decide

/-- INC PACNT with an edge between its read and its write: the edge sets PAIF, and the byte written is one more than the byte
read (R157, R466). -/
theorem test_edge_inside_read_modify_write :
    let s := running 0x00 [0x7C, 0x10, 0x27]
    let s := { s.setTimer { s.io.timer with pactl := 0x50, pacnt := 0x05 } with inputs := [[], [], [], [], [.portA 0x80]] }
    nextIs (step s) (fun t => t.io.timer.pacnt == 0x06 && bit t.io.timer.tflg2 4) = true := by decide

/-- PULX over TCNT: the low byte is that of one E cycle later (R507). -/
theorem test_pulx_of_tcnt :
    let s := (start 0 0 0 0 0x100D 0x2000 0xD0).placeAll 0x2000 [0x38]
    let s := s.setTimer { s.io.timer with tcnt := 0x12FF }
    nextIs (step s) (fun t => t.cpu.ix == 0x1200 && t.io.timer.tcnt == 0x1304) = true := by decide

/-- OPTION.DLY = 1: a delay of 4064 cycles, then the interrupt that ended the stop (R418, R512). -/
theorem test_start_up_delay :
    nextIs (step ((interrupted 0xC1 false true).setRun .stopped)) (fun t =>
        t.cpu.run == .starting 4064 .irq && t.io.sys.cycles == 0) = true ∧
      nextIs (step ((interrupted 0xC1 false true).setRun (.starting 1 .irq))) (fun t =>
        t.cpu.run == .starting 0 .irq && t.io.sys.cycles == 1) = true ∧
      nextIs (step ((interrupted 0xC1 false true).setRun (.starting 0 .irq))) (fun t =>
        t.cpu.run == .running && t.cpu.pc == 0xD000) = true := by decide

/-- A slave writes SPDR while the external master clocks a byte in: WCOL, and SPIF at its end (R68, R473). -/
theorem test_slave_collision :
    let s := plain.setSpi { plain.io.spi with spcr := 0x40 }
    nextIs (writeByte (applyInput s .spiSlaveStart) 0x102A 0x77) (fun t =>
      t.io.spi.spsr == 0x40 && (applyInput t (.spiClocked 0x5A)).io.spi.spsr == 0xC0 &&
        (applyInput t (.spiClocked 0x5A)).io.spi.rx == 0x5A) = true := by decide

/-- A character ends while SBK = 1, and SBK is cleared before a break starts: the transmitter is idle and TC is 1 (R73). -/
theorem test_tc_after_break_switched_off :
    let s := plain.setSci { plain.io.sci with sccr2 := 0x09, scsr := 0x80, left := some 10 }
    bit (advance 10 s).io.sci.scsr 6 = false ∧
      nextIs (writeByte (advance 10 s) 0x102D 0x08) (fun t => bit t.io.sci.scsr 6) = true := by decide

/-- A character that ends with TE = 0 leaves the transmitter idle, and so does clearing TE before a break starts (R72, R73). -/
theorem test_tc_with_transmitter_off :
    let s := plain.setSci { plain.io.sci with sccr2 := 0x01, scsr := 0x80, left := some 10 }
    let b := plain.setSci { plain.io.sci with sccr2 := 0x09, scsr := 0x80 }
    bit (advance 10 s).io.sci.scsr 6 = true ∧ nextIs (writeByte b 0x102D 0x01) (fun t => bit t.io.sci.scsr 6) = true := by decide

/-- SS rises while the clocks are stopped: the slave's transfer is over, and no clock completes it (R473). -/
theorem test_slave_released_in_stop :
    let s := (plain.setSpi { plain.io.spi with spcr := 0x40, slaveBusy := true }).setRun .stopped
    let t := (applyInput s (.portD 0x20)).setRun .running
    t.io.spi.slaveBusy = false ∧ (applyInput t (.spiClocked 0x5A)).io.spi.spsr = 0x00 := by decide

/-- An output bit of PORTA reads the last value written although the timer controls the pin (R476). -/
theorem test_porta_reads_last_written :
    let s := plain.setTimer { plain.io.timer with tctl1 := 0x80 }
    nextIs (writeByte s 0x1000 0x50) (fun t => peek t 0x1000 == 0x50) = true := by decide

/-- ADPU is cleared while a sequence runs: no conversion is finished, CCF stays 0, and ADPU = 1 does not take it up again (R80,
R475). -/
theorem test_adc_powered_down :
    let s := (plain.setSys { plain.io.sys with option := 0x90 }).setAdc { plain.io.adc with adctl := 0x20, next := some 3 }
    nextIs (writeByte s 0x1039 0x10) (fun t =>
      (applyInput t (.adcResult 0x55)).io.adc == t.io.adc && t.io.adc.adctl == 0x20 &&
        nextIs (writeByte t 0x1039 0x90) (fun u => (applyInput u (.adcResult 0x55)).io.adc.adctl == 0x20)) = true := by decide

/-- FOC2 toggles PA6 and FOC1 drives PA7 from OC1D, at once and without their flags (R52, R53, R54, R59). -/
theorem test_forced_compares :
    let s := plain.setTimer { plain.io.timer with tctl1 := 0x40, oc1m := 0x80, oc1d := 0x80 }
    nextIs (writeByte s 0x100B 0xC0) (fun t => t.io.timer.ocPins == 0xC0 && t.io.timer.tflg1 == 0x00) = true := by decide

/-- A write of PORTB in simple strobed mode pulses STRB for two E cycles (R43, R511). -/
theorem test_strb_pulse :
    let s := plain.setSys { plain.io.sys with hprio := 0x06 }
    nextIs (writeByte s 0x1004 0x12) (fun t =>
      strbLevel (advance 1 t).io.ports == bit s.io.ports.pioc 0 && strbLevel (advance 2 t).io.ports != bit s.io.ports.pioc 0) =
        true := by decide

/-- RWU = 1 inhibits the request of RDRF, and not that of TDRE (R72). -/
theorem test_rwu_inhibits_receiver :
    let sci (sccr2 : Byte) : State := plain.setSci { plain.io.sci with scsr := 0xE0, sccr2 := sccr2 }
    IntSource.sci.pending (sci 0x24) = true ∧ IntSource.sci.pending (sci 0x26) = false ∧
      IntSource.sci.pending (sci 0xA6) = true := by decide


/-! Witnesses: for each obligation with hypotheses, a state and operands that meet all of them, one for each clause. -/

theorem exists_next {o : Result} {p : State → Bool} (h : nextIs o p = true) : ∃ t, o = .next t ∧ p t = true := by
  cases o with
  | next t => exact ⟨t, rfl, h⟩
  | fault f => cases h
  | refused r => cases h

/-- The outcome is this refusal. -/
def refusedAs (o : Result) (r : Refusal) : Bool :=
  match o with
  | .refused q => q == r
  | _ => false

theorem of_refusedAs {o : Result} {r : Refusal} (h : refusedAs o r = true) : o = .refused r := by
  cases o with
  | next t => cases h
  | fault f => cases h
  | refused q => exact congrArg _ (by simpa [refusedAs] using h)

/-- The bytes decode to the instruction. -/
theorem witness_EncodeInvertsDecode : decode [0x18, 0x1E, 0xFF, 0x81, 0xFC, 0x99] = .ok (.brset (.indY 0xFF) 0x81 0xFC, [0x99]) := rfl

theorem witness_DecodeInvertsEncode :
    [Instr.brset (.indY 0xFF) 0x81 0xFC, .clr (.ext 0xFFFF), .bclr (.dir 0x00) 0x00, .ldaa (.imm 0x00), .test].all
      Instr.wellFormed = true := by decide

theorem witness_UndefinedOpcodesAreExactlyThese :
    pageOfPrebyte 0x18 = some .page2 ∧ pageOfPrebyte 0x1A = some .page3 ∧ pageOfPrebyte 0xCD = some .page4 ∧
      State.reset.smod = false := by decide

/-- The instruction completes, one whose store is refused, a reset while its bytes are fetched, and one between its stores. -/
theorem witness_StepRunsDecodedInstruction :
    let s := running 0x01 [0x8B, 0x01]
    let r := running 0x01 [0xB7, 0x10, 0x3B]
    let f := { s with inputs := [[], [Input.resetPin]] }
    let g := { running 0x01 [0x3C] with inputs := [[], [], [Input.resetPin]] }
    (runsNext (takeInputs s) = true ∧ codeAt (takeInputs s) s.cpu.pc [0x8B, 0x01] = true ∧
        (pastInstruction 2 (takeInputs s)).resetDue = false ∧
        nextIs (exec (.adda (.imm 0x01)) (pastInstruction 2 (takeInputs s))) (fun t => !t.resetDue) = true) ∧
      (runsNext (takeInputs f) = true ∧ codeAt (takeInputs f) f.cpu.pc [0x8B, 0x01] = true ∧
        (pastInstruction 2 (takeInputs f)).resetDue = true) ∧
      (runsNext (takeInputs g) = true ∧ codeAt (takeInputs g) g.cpu.pc [0x3C] = true ∧
        (pastInstruction 1 (takeInputs g)).resetDue = false ∧
        nextIs (exec .pshx (pastInstruction 1 (takeInputs g))) (fun t => t.resetDue) = true) ∧
      runsNext (takeInputs r) = true ∧ codeAt (takeInputs r) r.cpu.pc [0xB7, 0x10, 0x3B] = true ∧
        refusedAs (exec (.staa (.ext 0x103B)) (pastInstruction 3 (takeInputs r))) .programsNonVolatile = true := by decide

theorem witness_StepRunsDecodedInstruction_words :
    decode [0x8B, 0x01] = .ok (.adda (.imm 0x01), []) ∧ decode [0xB7, 0x10, 0x3B] = .ok (.staa (.ext 0x103B), []) ∧
      decode [0x3C] = .ok (.pshx, []) := ⟨rfl, rfl, rfl⟩

theorem witness_UndefinedOpcodeTraps :
    let s := running 0 [0x41]
    let t := running 0 [0x18, 0x00]
    (runsNext (takeInputs s) = true ∧ codeAt (takeInputs s) s.cpu.pc [0x41] = true ∧ (lookup .page1 0x41).isNone = true ∧
        pageOfPrebyte 0x41 = none ∧ (pastInstruction 1 (takeInputs s)).resetDue = false) ∧
      runsNext (takeInputs t) = true ∧ codeAt (takeInputs t) t.cpu.pc [0x18, 0x00] = true ∧ (lookup .page2 0x00).isNone = true ∧
        pageOfPrebyte 0x18 = some .page2 ∧ (pastInstruction 2 (takeInputs t)).resetDue = false := by decide

/-- A maskable request and XIRQ; the frame can be stacked and the vector is memory; a frame that would start programming. -/
theorem witness_InterruptIsTakenBetweenInstructions :
    let s := interrupted 0xC1 false true
    let x := interrupted 0x91 true false
    let bad := start 0 0 0 0 0x103B 0x2001 0xC0
    (s.io.sys.pendingReset = none ∧ s.cpu.run = .running ∧ requestOf (takeInputs s) = some (.maskable .irq) ∧
        s.cpu.iCleared = false ∧ accepted s (frameBytes s.cpu s.cpu.pc) = true ∧ isMemory s (s.vectorBase + 0xF2) = true ∧
        isMemory s (s.vectorBase + 0xF3) = true) ∧
      requestOf (takeInputs x) = some .xirq ∧ accepted bad (frameBytes bad.cpu bad.cpu.pc) = false := by decide

/-- The promoted source, a source of the fixed order, none, I = 1 and I = 0. -/
theorem witness_PriorityFollowsVectorTable :
    winner (twoPending 0x00) = some .tof ∧ winner (twoPending 0x06) = some .oc1 ∧ (IntSource.tof.pending (twoPending 0x06)) = true ∧
      fixedOrder.all (fun j => !j.pending plain) = true ∧ plain.cpu.ccr.i = true ∧ (twoPending 0x00).cpu.ccr.i = false := by decide

theorem witness_LatitudeAfterClearingI :
    let s := (interrupted 0xC1 false true).setICleared true
    s.io.sys.pendingReset = none ∧ s.cpu.run = .running ∧ s.cpu.iCleared = true ∧
      requestOf (takeInputs s) = some (.maskable .irq) ∧
      nextIs (runInstruction { takeInputs s with draws := (takeInputs s).draws + 1 }) (fun t => !t.cpu.iCleared) = true := by
  decide

theorem witness_WaitEndsOnlyOnRequest :
    let s := (interrupted 0xD1 false true).setRun .waiting
    let t := (interrupted 0xC1 false true).setRun .waiting
    (s.io.sys.pendingReset = none ∧ s.cpu.run = .waiting ∧ requestOf (takeInputs s) = none) ∧
      requestOf (takeInputs t) = some (.maskable .irq) := by decide

/-- XIRQ with X = 1, XIRQ with X = 0, IRQ with I = 0, nothing, and the state of TEST. -/
theorem witness_StopEndsOnlyOnWakeEvents :
    let noDelay (s : State) : State := s.setSys { s.io.sys with option := 0x00 }
    let x1 := (interrupted 0xD1 true false).setRun .stopped
    let x0 := (interrupted 0x91 true false).setRun .stopped
    let i0 := (interrupted 0xC1 false true).setRun .stopped
    let i1 := (interrupted 0xD1 false true).setRun .stopped
    let t := plain.setRun .testing
    (x1.io.sys.pendingReset = none ∧ x1.cpu.run = .stopped ∧ x1.pins.xirq = false ∧ x1.cpu.ccr.x = true) ∧
      (x0.pins.xirq = false ∧ x0.cpu.ccr.x = false ∧ accepted x0 (frameBytes x0.cpu x0.cpu.pc) = true) ∧
      (i0.pins.xirq = true ∧ i0.pins.irq = false ∧ i0.cpu.ccr.i = false ∧ bit i0.io.sys.option 5 = false) ∧
      (i1.pins.xirq = true ∧ i1.cpu.ccr.i = true) ∧ t.cpu.run = .testing ∧
      (bit x1.io.sys.option 4 = true ∧ bit (noDelay x1).io.sys.option 4 = false ∧ (noDelay x1).cpu.run = .stopped) ∧
      (i0.setRun (.starting 4064 .irq)).cpu.run = .starting (4063 + 1) .irq ∧
      (i0.setRun (.starting 0 .irq)).cpu.run = .starting 0 .irq := by decide

/-- Every kind of reset, and a part that comes up secured. -/
theorem witness_DueResetLoadsItsVector :
    let s := resetting true false 0x0F
    let t := resetting true false 0x07 .pin
    let secured := { t with params := { t.params with securityMask := true } }
    [ResetKind.pin, .clockMonitor, .cop].all (fun k =>
        (takeInputs (s k)).io.sys.pendingReset == some k && bit (resetRegisters (takeInputs (s k))).io.sys.config 3 &&
          isMemory (resetRegisters (s k)) (0xFF00 + k.vector)) = true ∧
      (takeInputs secured).io.sys.pendingReset = some .pin ∧ bit (resetRegisters (takeInputs secured)).io.sys.config 3 = false := by
  decide

theorem witness_ResetLoadsConfig :
    let t := { State.reset with params := { State.reset.params with device := .mc68hc811e2 } }
    State.reset.params.device ≠ .mc68hc811e2 ∧ t.params.device = .mc68hc811e2 := by decide

theorem witness_StepKeepsLegal :
    ∃ s t : State, s.legal = true ∧ step s = .next t :=
  have h : nextIs (step (running 0x20 [0xB7, 0x10, 0x3D])) (fun _ => true) = true := by decide
  ⟨_, (exists_next h).choose, by decide, (exists_next h).choose_spec.1⟩

/-- X set by XIRQ, by a reset and after a start-up delay; TAP and RTI; X = 1. -/
theorem witness_XIsSetOnlyByResetOrXirq :
    nextIs (step ((interrupted 0x91 true true).setRun (.starting 0 .xirq))) (fun t => t.cpu.ccr.x) = true ∧
      (interrupted 0x91 true false).cpu.ccr.x = false ∧
      nextIs (step (interrupted 0x91 true false)) (fun t => t.cpu.ccr.x) = true ∧
      nextIs (step ((resetting true false 0x0F .pin).setCcr (ccrOf 0x00))) (fun t => t.cpu.ccr.x) = true ∧
      nextIs (exec .tap (start 0xFF 0 0 0 0x01FF 0x2000 0x00)) (fun t => !t.cpu.ccr.x) = true ∧
      nextIs (exec .rti plain) (fun _ => true) = true ∧ plain.cpu.ccr.x = true := by decide

/-- SMOD kept by an instruction, and set by a reset. -/
theorem witness_SmodIsSetOnlyByReset :
    nextIs (step ((special 0 0 0 0 0x01FF 0x2000 0xD0).placeAll 0x2000 [0x01])) (fun t => t.smod) = true ∧
      (resetting false false 0x0F .pin).smod = false ∧
      nextIs (step (resetting false false 0x0F .pin)) (fun t => t.smod) = true := by decide

/-- A step over a state whose memories hold something, a store to ROM among them. -/
theorem witness_NonVolatileMemoryNeverChanges :
    let s := running 0x77 [0xB7, 0xE0, 0x00]
    let s := s.setSys { s.io.sys with config := 0x0E }
    let s := s.setMem { s.mem with rom := [(0xE000, 0x55)], eeprom := [(0, 0x66)] }
    nextIs (step s) (fun t => t.mem.rom == [(0xE000, 0x55)] && t.mem.eeprom == [(0, 0x66)]) = true := by decide

/-- The three refusals. -/
theorem witness_StepStopsOnlyAsSpecSays :
    let t := resetting true false 0x07 .pin
    refusedAs (step (running 0x01 [0xB7, 0x10, 0x3B])) .programsNonVolatile = true ∧
      refusedAs (step ((special 0x01 0 0 0 0x01FF 0x2000 0xD0).placeAll 0x2000 [0xB7, 0x10, 0x3E])) .usesTestFacility = true ∧
      refusedAs (step { t with params := { t.params with securityMask := true } }) .securedPart = true := by decide

/-- The hypotheses of the map's clauses at an address: register, RAM, bootstrap ROM, EEPROM, ROM, disabled ROM. -/
def mapCases (s : State) (a : Word) : List Bool :=
  let n := a.toNat
  [decide (n / 4096 = s.io.sys.init.toNat % 16 ∧ n % 4096 ≤ 0x3F),
    decide (n / 4096 = s.io.sys.init.toNat / 16 ∧ n % 4096 < ramSize s.params.device),
    bit s.io.sys.hprio 7 && bit s.io.sys.hprio 6 && decide (bootRomBase s.params.device ≤ n ∧ n ≤ 0xBFFF),
    bit s.io.sys.config 0 &&
      (match eepromRange s.params.device s.io.sys.config with
        | some r => decide (r.1 ≤ n ∧ n < r.1 + r.2)
        | none => false),
    bit s.io.sys.config 1 && romUse s.params.device n == .rom, bit s.io.sys.config 1 && romUse s.params.device n == .disabled]

/-- A state with a device, HPRIO, INIT and CONFIG. -/
def mapped (d : Device) (hprio init config : Byte) : State :=
  let s := State.reset.setSys { State.reset.io.sys with hprio := hprio, init := init, config := config }
  { s with params := { s.params with device := d } }

/-- Every clause of the map at the ends of its range. -/
theorem witness_MapPriority :
    let e9 := mapped .mc68hc11e9 0xC6 0x01 0x0F
    let e1 := mapped .mc68hc11e1 0x26 0x01 0x0F
    let covered := mapped .mc68hc11e9 0x26 0x00 0x0F
    [(0x1000 : Word), 0x103F].map (mapCases e9) = List.replicate 2 [true, false, false, false, false, false] ∧
      [(0x0000 : Word), 0x01FF].map (mapCases e9) = List.replicate 2 [false, true, false, false, false, false] ∧
      [(0xBF00 : Word), 0xBFFF].map (mapCases e9) = List.replicate 2 [false, false, true, false, false, false] ∧
      [(0xB600 : Word), 0xB7FF].map (mapCases e9) = List.replicate 2 [false, false, false, true, false, false] ∧
      [(0xD000 : Word), 0xFFFF].map (mapCases e9) = List.replicate 2 [false, false, false, false, true, false] ∧
      [(0xD000 : Word), 0xFFFF].map (mapCases e1) = List.replicate 2 [false, false, false, false, false, true] ∧
      [(0x0200 : Word), 0x0FFF, 0x1040, 0xB5FF, 0xB800, 0xBEFF, 0xC000, 0xCFFF].map (mapCases e9) =
        List.replicate 8 [false, false, false, false, false, false] ∧
      mapCases covered 0x003F = [true, true, false, false, false, false] ∧ resolve covered 0x003F = .register 0x3F ∧
      resolve covered 0x0040 = .ram 0x40 := by decide

theorem witness_ReadsHaveOnlyTheseSideEffects :
    isMemory plain 0x0100 = true ∧ resolve plain 0x100E = .register 0x0E ∧ readHasEffect (registerAt 0x0E) = false ∧
      (0x100E : Word) ∉ [0x02, 0x05, 0x29, 0x2A, 0x2E, 0x2F].map (regAddr plain) := by decide

/-- Addresses outside the register block, memory that holds nothing stored there and memory that does. -/
theorem witness_StoresChangeOnlyTheirBytes :
    let s := mapped .mc68hc11e9 0x06 0x01 0x0F
    plain.smod = false ∧
    isRegister s 0x01FF = false ∧ holdsStores s 0x01FF = true ∧ holdsStores s 0x0000 = true ∧ holdsStores s 0xD000 = false ∧
      isRegister s 0xD000 = false ∧ holdsStores s 0x0200 = false ∧ isRegister s 0x0200 = false ∧
      ([(0x01FF, 1), (0x0000, 2)] : List (Word × Byte)).all (fun p => !isRegister s p.1 && holdsStores s p.1) = true ∧
      quiet 1 s = true := by decide

/-- A word across the end of the address space. -/
theorem witness_AddressesAndByteOrder :
    [(0xFFFF : Word), 0x0000, 0x0100, 0x0101].all (fun a => isMemory plain a && holdsStores plain a) = true ∧
      quiet 1 plain = true := by decide

theorem witness_RefusedStores :
    let s := special 0 0 0 0 0x01FF 0x2000 0xD0
    let e20 := { s with params := { s.params with device := .mc68hc711e20 } }
    let e9 := { s with params := { s.params with device := .mc68hc711e9 } }
    storeRefusal s 0x100E 0 = some .usesTestFacility ∧ storeRefusal s 0x100F 0 = some .usesTestFacility ∧
      storeRefusal s 0x103E 0 = some .usesTestFacility ∧ storeRefusal e20 0x1036 0x02 = some .usesTestFacility ∧
      storeRefusal s 0x103B 0x01 = some .programsNonVolatile ∧ storeRefusal e9 0x103B 0x20 = some .programsNonVolatile ∧
      storeRefusal e20 0x1036 0x20 = some .programsNonVolatile ∧ storeRefusal plain 0x103E 0 = none := by decide

/-- Operands in memory, the second byte at the start of the address space. -/
theorem witness_LoadsRegisters :
    let s := start 0 0 0xFFF0 0 0x01FF 0x2000 0xD0
    effectiveAddress (.indX 0x0F) s = 0xFFFF ∧ isMemory s 0xFFFF = true ∧ isMemory s (0xFFFF + 1) = true := by decide

/-- Stores to memory, to a register, and one that would start programming. -/
theorem witness_StoresRegisters :
    accepted plain [(0x0100, 0x12), (0x0101, 0x34)] = true ∧ accepted plain [(0x1003, 0x12)] = true ∧
      accepted plain [(0x103A, 0x00), (0x103B, 0x02)] = false := by decide

theorem witness_PushesAndPulls :
    let s := start 1 0 0 0 0x01FD 0x2000 0xD0
    let r := start 1 0 0 0 0x103B 0x2000 0xD0
    accepted s [(s.cpu.sp, s.cpu.a)] = true ∧ accepted r [(r.cpu.sp, r.cpu.a)] = false ∧
      isMemory s (s.cpu.sp + 1) = true ∧ isMemory s (s.cpu.sp + 2) = true := by decide

/-- A quotient, a divisor of 0, a fraction, an overflow at equality. -/
theorem witness_MultiplyAndDivide :
    let q := start 0x00 0x64 0x0007 0 0x01FF 0x2000 0xD0
    let z := start 0x00 0x64 0x0000 0 0x01FF 0x2000 0xD0
    let f := start 0x00 0x64 0x0065 0 0x01FF 0x2000 0xD0
    let e := start 0x00 0x64 0x0064 0 0x01FF 0x2000 0xD0
    q.cpu.ix ≠ 0 ∧ z.cpu.ix = 0 ∧ (join f.cpu.a f.cpu.b).toNat < f.cpu.ix.toNat ∧ e.cpu.ix ≠ 0 ∧
      e.cpu.ix.toNat ≤ (join e.cpu.a e.cpu.b).toNat := by decide

theorem witness_DecimalAdjust : isBcd 0x99 = true ∧ isBcd 0x00 = true ∧ isBcd 0x0A = false := by decide

/-- The result stored to memory, and to PPROG, where INC would start programming; a reset between the read and the write. -/
theorem witness_ModifiesMemory :
    (beat plain).resetDue = false ∧ (beat { plain with inputs := [[.resetPin]] }).resetDue = true ∧ accepted plain [(0x0100, 0xFF)] = true ∧ isMemory plain 0x0100 = true ∧
      accepted plain [(0x103B, 0x01)] = false := by decide

theorem witness_BitBranches : isMemory plain (effectiveAddress (.dir 0xFF) plain) = true := by decide

theorem witness_JumpsAndCalls :
    let r := start 0 0 0 0 0x103B 0x2001 0xD0
    accepted plain [(0x01FF, lo plain.cpu.pc), (0x01FE, hi plain.cpu.pc)] = true ∧
      accepted r [(0x103B, lo r.cpu.pc), (0x103A, hi r.cpu.pc)] = false := by decide

/-- The stack at the top of RAM, and across address 0. -/
theorem witness_ReturnFromSubroutine :
    ramAt plain (plain.cpu.sp - 1) 2 = true ∧ ramAt (plain.setSp 0x0000) (0x0000 - 1) 2 = true ∧ quiet 1 plain = true ∧
      quiet 1 (plain.setSp 0x0000) = true := by decide

/-- S = 1; S = 0 without and with the clock monitor; a special mode; a normal mode. -/
theorem witness_StopAndTest :
    let s := start 0 0 0 0 0x01FF 0x2000 0x50
    let m := s.setSys { s.io.sys with option := 0x18 }
    plain.cpu.ccr.s = true ∧ (s.cpu.ccr.s = false ∧ bit s.io.sys.option 3 = false) ∧
      (m.cpu.ccr.s = false ∧ (bit m.io.sys.option 3 && !(bit m.io.sys.hprio 6 && bit m.io.sys.test1 3)) = true) ∧
      (special 0 0 0 0 0x01FF 0x2000 0xD0).smod = true ∧ plain.smod = false ∧
      accepted plain (frameBytes plain.cpu (plain.cpu.pc - 1)) = true := by decide

theorem witness_SoftwareInterruptAndWait :
    let r := start 0 0 0 0 0x103B 0x2001 0xD0
    accepted plain (frameBytes plain.cpu plain.cpu.pc) = true ∧ isMemory plain (plain.vectorBase + 0xF6) = true ∧
      isMemory plain (plain.vectorBase + 0xF7) = true ∧ accepted r (frameBytes r.cpu r.cpu.pc) = false := by decide

theorem witness_ReturnRestoresEntry :
    ramAt plain (plain.cpu.sp - 8) 9 = true ∧ quiet 8 plain = true ∧ plain.cpu.ccr.x = true ∧
      nextIs (takeException 0x2001 0xF6 false plain) (fun t =>
        (span (plain.cpu.sp - 8) 9).all (isMemory t) && t.cpu.ccr.x) = true := by decide

theorem witness_FlagRegistersClearOnes :
    let s := start 0 0 0x1000 0x0F26 0x01FF 0x2000 0xD0
    effectiveAddress (.ext 0x1025) s = regAddr s 0x25 ∧ effectiveAddress (.indX 0x25) s = regAddr s 0x25 ∧
      effectiveAddress (.indY 0xFF) s = regAddr s 0x25 ∧ effectiveAddress (.ext 0x1023) s = regAddr s 0x23 ∧
      effectiveAddress (.indX 0x23) s = regAddr s 0x23 ∧ effectiveAddress (.indY 0xFD) s = regAddr s 0x23 ∧
      quiet 1 s = true := by decide

/-- A normal and a special mode; the ends of the bootstrap ROM, RBOOT, SMOD and MDA being written 1 and 0. -/
theorem witness_HprioBitRules :
    let s := special 0 0 0 0 0x01FF 0x2000 0xD0
    bit plain.io.sys.hprio 6 = false ∧ bit s.io.sys.hprio 6 = true ∧ (bit (0xE0 : Byte) 6 && bit (0xE0 : Byte) 7) = true ∧
      (bit (0x40 : Byte) 6 && bit (0x40 : Byte) 7) = false ∧ isRegister s 0xBF00 = false ∧ holdsStores s 0xBFFF = true ∧
      resolve s 0xBF00 = .ext 0xBF00 .ram ∧ resolve s 0xBFFF = .ext 0xBFFF .ram ∧
      nextIs (writeByte s (regAddr s 0x3C) 0xE0) (fun t => t.mda) = true ∧
      nextIs (writeByte s (regAddr s 0x3C) 0x40) (fun t => !t.mda) = true ∧
      bootRomBase s.params.device ≤ (0xBF00 : Word).toNat := by decide

/-- The writes, and the counts at the ends of the window. -/
theorem witness_CopWatchdog :
    let s := plain.setSys { plain.io.sys with config := 0x08, copArmed := true }
    s.io.sys.copArmed = true ∧ plain.io.sys.copArmed = false ∧
      (!bit plain.io.sys.config 2 && !(bit plain.io.sys.hprio 6 && bit plain.io.sys.test1 3)) = false ∧
      (!bit s.io.sys.config 2 && !(bit s.io.sys.hprio 6 && bit s.io.sys.test1 3)) = true ∧
      s.io.sys.copCount + 32767 < 2 ^ (15 + 2 * (s.io.sys.option.toNat % 4)) ∧
      2 ^ (15 + 2 * (s.io.sys.option.toNat % 4)) + 2 ^ 15 ≤ s.io.sys.copCount + 65536 := by decide

/-- An instruction's longest time, in which OC1 and OC2 can meet their registers. -/
theorem witness_TimeMovesTheTimer :
    let s := plain.setTimer { plain.io.timer with toc1 := 0x0029, toc2 := 0x0001, tctl1 := 0xC0, oc1m := 0x40 }
    41 ≤ 65536 ∧ (advance 41 s).io.timer.tflg1 = 0xC0 ∧ (advance 41 s).io.timer.ocPins = 0x00 ∧
      (advance 40 s).io.timer.ocPins = 0x40 := by decide

/-- A running machine with the pulse accumulator off, and in event mode. -/
theorem witness_InputEdges :
    let e := plain.setTimer { plain.io.timer with pactl := 0x40 }
    plain.cpu.run ≠ .stopped ∧ (bit plain.io.timer.pactl 6 && bit plain.io.timer.pactl 5) = false ∧
      (bit e.io.timer.pactl 6 && bit e.io.timer.pactl 5) = false := by decide

/-- An enabled idle master, an idle slave, a transfer in progress before and at its end, a slave's transfer in progress, and a
sequence at each result. -/
theorem witness_TransfersAndConversions :
    let s := plain.setSpi { plain.io.spi with spcr := 0x50 }
    let b := plain.setSpi { plain.io.spi with spcr := 0x50, left := some 16 }
    let v := plain.setSpi { plain.io.spi with spcr := 0x40, slaveBusy := true }
    ((s.io.spi.left.isSome || s.io.spi.slaveBusy) = false ∧ bit s.io.spi.spcr 6 = true ∧ bit s.io.spi.spcr 4 = true) ∧
      ((v.io.spi.left.isSome || v.io.spi.slaveBusy) = true ∧ bit v.pins.portD 5 = false ∧ bit (0x20 : Byte) 5 = true) ∧
      ((plain.io.spi.left.isSome || plain.io.spi.slaveBusy) = false ∧ (bit plain.io.spi.spcr 6 && bit plain.io.spi.spcr 4) = false) ∧
      ((b.io.spi.left.isSome || b.io.spi.slaveBusy) = true ∧ b.io.spi.left = some 16 ∧ 15 < 16 ∧ 16 ≤ 16) ∧ plain.cpu.run ≠ .stopped ∧
      plain.io.adc.next = none ∧ bit plain.io.sys.option 7 = false ∧
      bit (plain.setSys { plain.io.sys with option := 0x90 }).io.sys.option 7 = true ∧
      ([some 0, some 1, some 2, some 3] : List (Option (Fin 4))).all
        (fun k => (plain.setAdc { plain.io.adc with next := k }).io.adc.next == k) = true := by decide

/-- A receiver that is ready, one that overruns, a transmitter with a buffered character, one that breaks, and one with its
shifter busy. -/
theorem witness_SciMovesCharacters :
    let r := plain.setSci { plain.io.sci with sccr2 := 0x04 }
    let o := plain.setSci { plain.io.sci with sccr2 := 0x04, scsr := 0xE0 }
    let t := plain.setSci { plain.io.sci with sccr2 := 0x08, scsr := 0x40 }
    let k := plain.setSci { plain.io.sci with sccr2 := 0x09 }
    let b := plain.setSci { plain.io.sci with sccr2 := 0x08, left := some 10 }
    (plain.cpu.run ≠ .stopped ∧ bit r.io.sci.sccr2 2 = true ∧ bit r.io.sci.sccr2 1 = false ∧ bit r.io.sci.scsr 5 = false) ∧
      (bit o.io.sci.sccr2 2 = true ∧ bit o.io.sci.sccr2 1 = false ∧ bit o.io.sci.scsr 5 = true) ∧
      (bit t.io.sci.sccr2 3 = true ∧ t.io.sci.left = none ∧ bit t.io.sci.scsr 7 = false ∧ bit t.io.sci.baud 6 = false) ∧
      (bit k.io.sci.sccr2 3 = true ∧ k.io.sci.left = none ∧ bit k.io.sci.scsr 7 = true ∧ bit k.io.sci.baud 6 = false) ∧
      b.io.sci.left = some 10 ∧ 9 < 10 ∧ 10 ≤ 10 := by decide

/-- Single chip mode: the selected edge, the other and a level that repeats, simple strobed mode and full handshake, STAF set,
output handshake with STRA active and not, a pulse of STRB before its end and at it, the modes with a bus, the SCI and the SPI
off. -/
theorem witness_PortsAndHandshake :
    let s := mapped .mc68hc11e9 0x06 0x01 0x0F
    let f := s.setPorts { s.io.ports with pioc := 0x83 }
    let h := s.setPorts { s.io.ports with pioc := 0x98, strbPulse := 2 }
    let up := h.setPins { h.pins with stra := true }
    (s.mda = false ∧ s.cpu.run ≠ .stopped ∧ s.pins.stra ≠ true ∧ true = bit s.io.ports.pioc 1 ∧
        (bit s.io.ports.pioc 4 && bit s.io.ports.pioc 3) = false) ∧
      false ≠ bit s.io.ports.pioc 1 ∧ s.pins.stra = false ∧ bit s.io.ports.pioc 4 = false ∧ bit f.io.ports.pioc 7 = true ∧
      ((bit h.io.ports.pioc 4 && bit h.io.ports.pioc 3) = true ∧ bit h.io.ports.pioc 7 = true ∧
        h.pins.stra = bit h.io.ports.pioc 1 ∧ up.pins.stra ≠ bit up.io.ports.pioc 1 ∧ up.pins.stra ≠ false ∧
        (h.mda || bit h.io.ports.pioc 4) = true) ∧
      (s.io.ports.strbPulse = 0 ∧ 1 < h.io.ports.strbPulse ∧ h.io.ports.strbPulse ≠ 0 ∧ h.io.ports.strbPulse ≤ 2) ∧
      plain.mda = true ∧ bit s.io.sci.sccr2 2 = false ∧ bit s.io.spi.spcr 6 = false := by decide

end Sys2Proof.Tests
end

section
/-! PROOFS. Dispatch: the bytes of an instruction in memory are fetched as they stand, and the step is the meaning of what
they decode to (R16, R155, R438, R490, R511). -/

namespace Sys2Proof.Machine

/-! The code in memory is the same whatever the CPU holds, and after time and the outside world have moved. -/

theorem codeAt_withCpu (bs : List Byte) : ∀ (s : State) (c : Cpu) (a : Word), codeAt (s.withCpu c) a bs = codeAt s a bs := by
  induction bs with
  | nil => intro s c a; rfl
  | cons b bs ih =>
    intro s c a
    simp only [codeAt, isMemory_congr (s := s) (t := s.withCpu c) rfl rfl,
      peek_of_mem (s := s) (t := s.withCpu c) ⟨rfl, rfl, rfl, rfl, rfl⟩ rfl, ih]

theorem codeAt_core {s t : State} (h : SameCore s t) (bs : List Byte) : ∀ a : Word, codeAt t a bs = codeAt s a bs := by
  induction bs with
  | nil => intro a; rfl
  | cons b bs ih =>
    intro a
    simp only [codeAt, isMemory_core h, ih]
    cases hm : isMemory s a
    · rfl
    · rw [peek_core h hm]

/-! The outside world's moves after the fetched bytes do not look at the CPU but for its run state. -/

theorem pauses_withCpu (n : Nat) (s : State) {c : Cpu} (hr : c.run = s.cpu.run) :
    pauses n (s.withCpu c) = (pauses n s).withCpu c := by
  have hmem : (pauses n s).mem = s.mem := (pauses_core n s).2.1
  calc pauses n (s.withCpu c) = pauses n (s.withCore c s.mem) := rfl
    _ = (pauses n s).withCore c s.mem := pauses_withCore n s s.mem hr
    _ = (pauses n s).withCpu c := by rw [← hmem]; rfl

theorem pauses_setPc (n : Nat) (s : State) (v : Word) : pauses n (s.setPc v) = (pauses n s).setPc v := by
  have hcpu : (pauses n s).cpu = s.cpu := (pauses_core n s).1
  show _ = (pauses n s).withCpu { (pauses n s).cpu with pc := v }
  rw [hcpu]
  exact pauses_withCpu n s rfl

theorem pauses_setICleared (n : Nat) (s : State) (v : Bool) : pauses n (s.setICleared v) = (pauses n s).setICleared v := by
  have hcpu : (pauses n s).cpu = s.cpu := (pauses_core n s).1
  show _ = (pauses n s).withCpu { (pauses n s).cpu with iCleared := v }
  rw [hcpu]
  exact pauses_withCpu n s rfl

/-! Fetching. -/

/-- A byte fetched from memory is the one that stands there. -/
theorem fetch8_memory {s : State} (h : isMemory s s.cpu.pc = true) :
    fetch8 s = (peek s s.cpu.pc, (pause s).setPc (s.cpu.pc + 1)) := by
  unfold fetch8
  rw [readByte_memory h]
  exact congrArg (Prod.mk _) (pauses_setPc 1 s _)

/-- The bytes fetched are those that stand at PC, which ends past them. -/
theorem fetchBytes_codeAt (bs : List Byte) : ∀ s : State, codeAt s s.cpu.pc bs = true →
    fetchBytes bs.length s = (bs, (pauses bs.length s).setPc (s.cpu.pc + BitVec.ofNat 16 bs.length)) := by
  induction bs with
  | nil =>
    intro s _
    simp only [List.length_nil, fetchBytes, pauses, BitVec.add_zero]
    rfl
  | cons b bs ih =>
    intro s hcode
    simp only [codeAt, Bool.and_eq_true, beq_iff_eq] at hcode
    obtain ⟨⟨hmem, hbyte⟩, hrest⟩ := hcode
    have hnext : codeAt ((pause s).setPc (s.cpu.pc + 1)) (s.cpu.pc + 1) bs = true := by
      rw [← hrest, ← codeAt_core (pause_core s) bs]
      exact codeAt_withCpu bs (pause s) _ _
    have hpc : s.cpu.pc + 1 + BitVec.ofNat 16 bs.length = s.cpu.pc + BitVec.ofNat 16 (bs.length + 1) := by
      rw [BitVec.add_assoc, BitVec.add_comm 1, BitVec.ofNat_add]
      rfl
    simp only [List.length_cons, fetchBytes, fetch8_memory hmem, hbyte, ih _ hnext, pauses_setPc, State.setPc_pc, hpc]
    rfl

/-- A row that decodes exactly the operand bytes given is one of as many operand bytes. -/
theorem operandCount_of_decodeOn {p : Page} {op : Byte} {ops : List Byte} {i : Instr}
    (h : decodeOn p op ops = .ok (i, [])) : operandCount p op = ops.length := by
  unfold decodeOn at h
  unfold operandCount
  cases hrow : lookup p op with
  | none => simp [hrow] at h
  | some r =>
    simp only [hrow, OpRow.finish] at h
    split at h
    · cases h
    · next henough =>
      have hdrop : ops.drop r.operands = [] := congrArg Prod.snd (Except.ok.inj h)
      have := List.drop_eq_nil_iff.mp hdrop
      show r.operands = ops.length
      omega

/-- The bytes that decode to an instruction are all that is fetched for it: the decoder and the fetch agree on its length
(R131, R170). -/
theorem fetchInstruction_eq_fetchBytes {s : State} {bs : List Byte} {i : Instr} (hcode : codeAt s s.cpu.pc bs = true)
    (hdec : decode bs = .ok (i, [])) : fetchInstruction s = fetchBytes bs.length s := by
  have hbytes : (fetchBytes bs.length s).1 = bs := congrArg Prod.fst (fetchBytes_codeAt bs s hcode)
  cases bs with
  | nil => cases hdec
  | cons b0 rest =>
    have h0 : (fetch8 s).1 = b0 := (List.cons.inj hbytes).1
    unfold fetchInstruction
    simp only [decode] at hdec
    cases hpage : pageOfPrebyte b0 with
    | none =>
      simp only [hpage] at hdec
      simp only [h0, hpage, operandCount_of_decodeOn hdec, List.length_cons, fetchBytes]
    | some p =>
      simp only [hpage] at hdec
      cases rest with
      | nil => cases hdec
      | cons b1 ops =>
        have h1 : (fetch8 (fetch8 s).2).1 = b1 := (List.cons.inj (List.cons.inj hbytes).2).1
        simp only [h0, hpage, h1, operandCount_of_decodeOn hdec, List.length_cons, fetchBytes]

/-- Fetching the instruction at PC gives its bytes and the state past it. -/
theorem fetchInstruction_codeAt {u : State} {bs : List Byte} {i : Instr} (hcode : codeAt u u.cpu.pc bs = true)
    (hdec : decode bs = .ok (i, [])) : fetchInstruction (u.setICleared false) = (bs, pastInstruction bs.length u) := by
  have hcode' : codeAt (u.setICleared false) (u.setICleared false).cpu.pc bs = true :=
    (codeAt_withCpu bs u _ _).trans hcode
  have hpc : u.cpu.pc = (pauses bs.length u).cpu.pc := by rw [(pauses_core bs.length u).1]
  rw [fetchInstruction_eq_fetchBytes hcode' hdec, fetchBytes_codeAt bs _ hcode', pauses_setICleared,
    State.setICleared_pc, hpc]
  rfl

/-! The end of a step. -/

theorem spend_next_due {t : State} (h : t.resetDue = true) (start n : Nat) : spend start n (.next t) = .next t := by
  simp [spend, h]

theorem spend_next {t : State} (h : t.resetDue = false) (start n : Nat) :
    spend start n (.next t) = .next (advance (n - (t.io.sys.cycles - start)) t) := by
  simp [spend, h]

@[simp] theorem spend_refused (r : Refusal) (start n : Nat) : spend start n (.refused r) = .refused r := rfl

/-! Dispatch. -/

theorem recognise_none {s : State} (h : requestOf s = none) : recognise s = (none, s) := by
  simp [recognise, h]

/-- Where nothing comes before the next instruction, the step is that instruction. -/
theorem stepFrom_runsNext {u : State} (h : runsNext u = true) : stepFrom u = runInstruction u := by
  simp only [runsNext, Bool.and_eq_true, Option.isNone_iff_eq_none, beq_iff_eq] at h
  obtain ⟨⟨hreset, hrun⟩, hrequest⟩ := h
  simp only [stepFrom, hreset, hrun, runningStep, recognise_none hrequest]

/-- The instruction at PC is executed past its bytes, unless a reset becomes due while they are fetched (R16, R490). -/
theorem runInstruction_codeAt {u : State} {bs : List Byte} {i : Instr} (hcode : codeAt u u.cpu.pc bs = true)
    (hdec : decode bs = .ok (i, [])) :
    runInstruction u =
      if (pastInstruction bs.length u).resetDue then .next (pastInstruction bs.length u)
      else spend u.io.sys.cycles (cyclesOf i (pastInstruction bs.length u)) (exec i (pastInstruction bs.length u)) := by
  simp only [runInstruction, fetchInstruction_codeAt hcode hdec, hdec]

/-! Cycles. -/

/-- Instructions that all take `n` cycles: `cyclesOf` maps their list to as many copies of `n`. -/
theorem cyclesOf_of_map {s : State} {n : Nat} {is : List Instr} (h : is.map (cyclesOf · s) = List.replicate is.length n) :
    ∀ i ∈ is, i.wellFormed = true → cyclesOf i s = n :=
  fun i hi _ => List.map_eq_replicate_iff.mp h i hi

/-- Settles O5: the step is the instruction that the bytes at PC decode to, since the fetch and the decoder agree on its
length; the counts are read off `cyclesOf`, form by form. -/
theorem stepRunsDecodedInstruction : Obligations.StepRunsDecodedInstruction := by
  unfold Obligations.StepRunsDecodedInstruction
  refine ⟨?dispatch, ?cycles⟩
  case dispatch =>
    intro s bs i u p hruns hcode hdec
    have hstep : step s = if p.resetDue then .next p else spend u.io.sys.cycles (cyclesOf i p) (exec i p) :=
      (stepFrom_runsNext hruns).trans (runInstruction_codeAt hcode hdec)
    refine ⟨fun hdue => by rw [hstep, if_pos hdue], fun hdue => ?_⟩
    have hmeaning : step s = spend u.io.sys.cycles (cyclesOf i p) (exec i p) := by
      rw [hstep, if_neg (Bool.eq_false_iff.mp hdue)]
    refine ⟨fun t ht => ⟨fun htdue => ?_, fun htdue => ?_⟩, fun r hr => ?_⟩
    · rw [hmeaning, ht, spend_next_due htdue]
    · rw [hmeaning, ht, spend_next htdue]
    · rw [hmeaning, hr, spend_refused]
  case cycles =>
    intro s m o w k r
    and_intros <;> exact cyclesOf_of_map rfl

end Sys2Proof.Machine
end

section
/-! PROOFS. The map and reads: which resource answers at an address (R136 to R144) and what a read changes (R151). -/

namespace Sys2Proof.Machine

/-! Map resolution, one equation for each resource, in the order of R136. -/

/-- The register block answers at `n`. -/
def inRegisters (s : State) (n : Nat) : Prop := n / 4096 = s.io.sys.init.toNat % 16 ∧ n % 4096 < 64

/-- The window of internal RAM holds `n`. -/
def inRam (s : State) (n : Nat) : Prop := n / 4096 = s.io.sys.init.toNat / 16 ∧ n % 4096 < ramSize s.params.device

/-- The window of the bootstrap ROM holds `n`. -/
def inBootRom (s : State) (n : Nat) : Prop :=
  s.bootRomOn = true ∧ bootRomBase s.params.device ≤ n ∧ n < 0xC000

/-- The enabled EEPROM stands at the range `r`, which holds `n`. -/
def inEeprom (s : State) (n : Nat) (r : Nat × Nat) : Prop :=
  bit s.io.sys.config 0 = true ∧ eepromRange s.params.device s.io.sys.config = some r ∧ r.1 ≤ n ∧ n < r.1 + r.2

section
variable {s : State} {a : Word}

theorem resolve_of_inRegisters (h : inRegisters s a.toNat) : resolve s a = .register (a.toNat % 4096) := by
  unfold inRegisters at h
  simp only [resolve, if_pos h]

theorem resolve_of_inRam (hreg : ¬ inRegisters s a.toNat) (h : inRam s a.toNat) :
    resolve s a = .ram (a.toNat % 4096) := by
  unfold inRegisters at hreg
  unfold inRam at h
  simp only [resolve, if_neg hreg, if_pos h]

theorem resolve_of_inBootRom (hreg : ¬ inRegisters s a.toNat) (hram : ¬ inRam s a.toNat) (h : inBootRom s a.toNat) :
    resolve s a = .bootRom a.toNat := by
  unfold inRegisters at hreg
  unfold inRam at hram
  unfold inBootRom at h
  simp only [resolve, if_neg hreg, if_neg hram, if_pos h]

theorem resolve_of_inEeprom (hreg : ¬ inRegisters s a.toNat) (hram : ¬ inRam s a.toNat) (hboot : ¬ inBootRom s a.toNat)
    {r : Nat × Nat} (h : inEeprom s a.toNat r) : resolve s a = .eeprom (a.toNat - r.1) := by
  unfold inRegisters at hreg
  unfold inRam at hram
  unfold inBootRom at hboot
  obtain ⟨hon, hrange, hwindow⟩ := h
  simp only [resolve, if_neg hreg, if_neg hram, if_neg hboot, hrange, if_pos (And.intro hon hwindow)]

theorem resolve_of_outside (hreg : ¬ inRegisters s a.toNat) (hram : ¬ inRam s a.toNat) (hboot : ¬ inBootRom s a.toNat)
    (hee : ¬ ∃ r, inEeprom s a.toNat r) : resolve s a = resolve.resolveRom s a.toNat := by
  unfold inRegisters at hreg
  unfold inRam at hram
  unfold inBootRom at hboot
  simp only [resolve, if_neg hreg, if_neg hram, if_neg hboot]
  cases hrange : eepromRange s.params.device s.io.sys.config with
  | none => rfl
  | some r => exact if_neg fun h => hee ⟨r, h.1, hrange, h.2⟩

theorem resolveRom_rom {n : Nat} (hon : bit s.io.sys.config 1 = true) (h : romUse s.params.device n = .rom) :
    resolve.resolveRom s n = .rom n := by
  simp only [resolve.resolveRom, if_pos hon, h]

theorem resolveRom_disabled {n : Nat} (hon : bit s.io.sys.config 1 = true) (h : romUse s.params.device n = .disabled) :
    resolve.resolveRom s n = .nothing := by
  simp only [resolve.resolveRom, if_pos hon, h]

theorem resolveRom_external {n : Nat} (hrom : ¬ (bit s.io.sys.config 1 = true ∧ romUse s.params.device n = .rom))
    (hoff : ¬ (bit s.io.sys.config 1 = true ∧ romUse s.params.device n = .disabled)) :
    resolve.resolveRom s n = if s.mda then .ext n (extKind s.params.extMap n) else .nothing := by
  by_cases hon : bit s.io.sys.config 1 = true
  · cases huse : romUse s.params.device n with
    | rom => exact absurd ⟨hon, huse⟩ hrom
    | disabled => exact absurd ⟨hon, huse⟩ hoff
    | none => simp only [resolve.resolveRom, if_pos hon, huse]
  · simp only [resolve.resolveRom, if_neg hon]

/-- The windows as MapPriority writes them, with the last address of each in place of the first one past it. -/
theorem inRegisters_iff {n : Nat} :
    inRegisters s n ↔ n / 4096 = s.io.sys.init.toNat % 16 ∧ n % 4096 ≤ 0x3F :=
  and_congr_right' Nat.lt_succ_iff

theorem inBootRom_iff {n : Nat} :
    inBootRom s n ↔
      bit s.io.sys.hprio 7 = true ∧ bit s.io.sys.hprio 6 = true ∧ bootRomBase s.params.device ≤ n ∧ n ≤ 0xBFFF := by
  unfold inBootRom State.bootRomOn State.rboot State.smod
  rw [Bool.and_eq_true, and_assoc, Nat.lt_succ_iff]

end

/-- Settles O23: one equation for each resource, in the order in which the map asks for them. -/
theorem mapPriority : Obligations.MapPriority := by
  unfold Obligations.MapPriority
  intro s a
  simp only [← inRegisters_iff, ← inBootRom_iff]
  refine ⟨resolve_of_inRegisters, resolve_of_inRam, resolve_of_inBootRom,
    fun hreg hram hboot r => resolve_of_inEeprom hreg hram hboot, ?rom, ?disabled, ?external⟩
  case rom =>
    intro hreg hram hboot hee ⟨hon, huse⟩
    rw [resolve_of_outside hreg hram hboot hee, resolveRom_rom hon huse]
  case disabled =>
    intro hreg hram hboot hee ⟨hon, huse⟩
    rw [resolve_of_outside hreg hram hboot hee, resolveRom_disabled hon huse]
  case external =>
    intro hreg hram hboot hee hrom hoff
    rw [resolve_of_outside hreg hram hboot hee, resolveRom_external hrom hoff]

/-! Reads. -/

section
variable {s : State} {a : Word}

/-- A read of a register without side effect changes no register (R151). -/
theorem readRegister_io {r : IoReg} (h : readHasEffect r = false) (s : State) : (readRegister r s).2.io = s.io := by
  cases r
  case portc => simp only [readRegister, readPortC]; split <;> rfl
  case eprog => simp only [readRegister]; split <;> rfl
  case test1 => simp only [readRegister]; split <;> rfl
  case pioc | portcl | spsr | spdr | scsr | scdr => cases h
  all_goals rfl

/-- Where the registers stand a read of which has a side effect. -/
theorem readHasEffect_registerAt :
    ∀ off < 64, readHasEffect (registerAt off) = true → off ∈ [0x02, 0x05, 0x29, 0x2A, 0x2E, 0x2F] := by decide

theorem readByte_register_io {off : Nat} (ha : resolve s a = .register off) (h : readHasEffect (registerAt off) = false) :
    (readByte s a).2.io = s.io := by
  simp only [readByte, ha, readRegister_io h]

/-- A read outside the register block changes no register. -/
theorem readByte_outside_io (h : isRegister s a = false) : (readByte s a).2.io = s.io := by
  unfold isRegister at h
  unfold readByte
  cases ha : resolve s a with
  | register off => rw [ha] at h; cases h
  | ext n k => cases k <;> rfl
  | _ => rfl

theorem isRegister_eq_true_iff : isRegister s a = true ↔ ∃ off, resolve s a = .register off := by
  unfold isRegister
  cases resolve s a <;> simp

end

/-- Settles O24: the frame of every read, and the six registers a read of which acts. -/
theorem readsHaveOnlyTheseSideEffects : Obligations.ReadsHaveOnlyTheseSideEffects := by
  unfold Obligations.ReadsHaveOnlyTheseSideEffects
  intro s a
  refine ⟨afterRead_of_frame (readByte_frame s a), readByte_memory, fun hother => ?_, fun off => readByte_register_io⟩
  by_cases hreg : isRegister s a = true
  · obtain ⟨off, ha⟩ := isRegister_eq_true_iff.mp hreg
    obtain ⟨hoff, haddr⟩ := resolve_register_iff.mp ha
    refine readByte_register_io ha (Bool.eq_false_iff.mpr fun heffect => hother ?_)
    exact List.mem_map.mpr ⟨off, readHasEffect_registerAt off hoff heffect, haddr.symm⟩
  · exact readByte_outside_io (Bool.eq_false_iff.mpr hreg)

end Sys2Proof.Machine
end

section
/-! PROOFS. Stores: what a list of stores changes outside the register block, what a write of a plain register changes, and
the bytes of a word (R130, R135, R137, R150). -/

namespace Sys2Proof.Machine

/-! A store outside the register block and the beat after it leave the map alone. -/

theorem resolve_beat_store {s : State} {a : Word} (h : isRegister s a = false) (v : Byte) (x : Word) :
    resolve (beat (store s a v)) x = resolve s x := by
  obtain ⟨hio, _, hparams, _, _⟩ := store_outside h v
  rw [resolve_core (beat_core _), resolve_congr (congrArg Io.sys hio) hparams]

theorem isRegister_beat_store {s : State} {a : Word} (h : isRegister s a = false) (v : Byte) (x : Word) :
    isRegister (beat (store s a v)) x = isRegister s x := by
  unfold isRegister
  rw [resolve_beat_store h]

theorem isMemory_beat_store {s : State} {a : Word} (h : isRegister s a = false) (v : Byte) (x : Word) :
    isMemory (beat (store s a v)) x = isMemory s x := by
  unfold isMemory
  rw [resolve_beat_store h]

theorem holdsStores_beat_store {s : State} {a : Word} (h : isRegister s a = false) (v : Byte) (x : Word) :
    holdsStores (beat (store s a v)) x = holdsStores s x := by
  unfold holdsStores
  rw [resolve_beat_store h]

/-- Memory reads after the beat as it does after the store. -/
theorem peek_beat_store {s : State} {a : Word} (h : isRegister s a = false) (v : Byte) {x : Word}
    (hx : isMemory s x = true) :
    peek (beat (store s a v)) x = if x = a ∧ holdsStores s a = true then v else peek s x := by
  obtain ⟨hio, _, hparams, _, _⟩ := store_outside h v
  rw [peek_core (beat_core _) (by rw [isMemory_congr (congrArg Io.sys hio) hparams, hx]), peek_store h]

theorem resetDue_beat_store {s : State} {a : Word} (h : isRegister s a = false) (v : Byte) :
    (beat (store s a v)).resetDue = (beat s).resetDue := by
  rw [beat_store h]
  rfl

theorem beats_beat_store {s : State} {a : Word} (h : isRegister s a = false) (v : Byte) (n : Nat) :
    ∃ m, beats n (beat (store s a v)) = (beats (n + 1) s).withCore s.cpu m :=
  ⟨_, by rw [beat_store h, beats_withCore n _ _ (by rw [(beat_core s).1])]; rfl⟩

/-- Whether a reset becomes due does not depend on what is stored outside the register block. -/
theorem quiet_beat_store {s : State} {a : Word} (h : isRegister s a = false) (v : Byte) (n : Nat) :
    quiet n (beat (store s a v)) = quiet (n + 1) s := by
  obtain ⟨m, hm⟩ := beats_beat_store h v n
  unfold quiet
  rw [hm]
  rfl

/-! Lists of stores outside the register block. -/

/-- Memory that no store of the list names keeps what it holds. -/
theorem peek_storeAll_other (l : List (Word × Byte)) : ∀ (s : State) {x : Word}, (∀ p ∈ l, isRegister s p.1 = false) →
    isMemory s x = true → x ∉ l.map Prod.fst → peek (storeAll s l) x = peek s x := by
  induction l with
  | nil => intro s x _ _ _; rfl
  | cons p l ih =>
    intro s x hreg hmem hx
    obtain ⟨a, v⟩ := p
    have ha : isRegister s a = false := hreg (a, v) List.mem_cons_self
    obtain ⟨hxa, hxl⟩ : x ≠ a ∧ x ∉ l.map Prod.fst := by simpa using hx
    have hbeat : peek (beat (store s a v)) x = peek s x := by
      rw [peek_beat_store ha v hmem, if_neg fun e => hxa e.1]
    cases l with
    | nil => exact (peek_store ha v x).trans (if_neg fun e => hxa e.1)
    | cons q l =>
      simp only [storeAll]
      split
      · exact hbeat
      · refine (ih _ (fun p hp => ?_) (by rw [isMemory_beat_store ha, hmem]) hxl).trans hbeat
        rw [isRegister_beat_store ha]
        exact hreg p (List.mem_cons_of_mem _ hp)

/-- Where every address holds stores, none is named twice and no reset comes between, every byte stored reads back. -/
theorem peek_storeAll_mem (l : List (Word × Byte)) : ∀ s : State, (∀ p ∈ l, holdsStores s p.1 = true) →
    (l.map Prod.fst).Nodup → quiet (l.length - 1) s = true → ∀ p ∈ l, peek (storeAll s l) p.1 = p.2 := by
  induction l with
  | nil => intro s _ _ _ p hp; cases hp
  | cons q l ih =>
    intro s hholds hnodup hquiet p hp
    obtain ⟨a, v⟩ := q
    have ha : holdsStores s a = true := hholds (a, v) List.mem_cons_self
    have hareg : isRegister s a = false := isRegister_of_holdsStores ha
    cases l with
    | nil =>
      obtain rfl : p = (a, v) := by simpa using hp
      exact (peek_store hareg v a).trans (if_pos ⟨rfl, ha⟩)
    | cons r l =>
      obtain ⟨hnotin, hnodup⟩ := List.nodup_cons.mp hnodup
      have hholds' : ∀ p ∈ r :: l, holdsStores (beat (store s a v)) p.1 = true := fun p hp => by
        rw [holdsStores_beat_store hareg]
        exact hholds p (List.mem_cons_of_mem _ hp)
      have hquiet' : quiet l.length (beat (store s a v)) = true := by rw [quiet_beat_store hareg]; exact hquiet
      have hnotdue : (beat (store s a v)).resetDue = false :=
        (resetDue_beat_store hareg v).trans (quiet_first hquiet).1
      simp only [storeAll, hnotdue, Bool.false_eq_true, if_false]
      rcases List.mem_cons.mp hp with rfl | hp
      · rw [peek_storeAll_other (r :: l) _ (fun p hp => isRegister_of_holdsStores (hholds' p hp))
          (by rw [isMemory_beat_store hareg, isMemory_of_holdsStores ha]) hnotin,
          peek_beat_store hareg v (isMemory_of_holdsStores ha), if_pos ⟨rfl, ha⟩]
      · exact ih _ hholds' hnodup hquiet' p hp

theorem storeAll_params (l : List (Word × Byte)) : ∀ s : State, (storeAll s l).params = s.params := by
  induction l with
  | nil => intro s; rfl
  | cons p l ih =>
    intro s
    obtain ⟨a, v⟩ := p
    obtain ⟨_, _, hstore, _⟩ := store_frame s a v
    obtain ⟨_, _, hbeat, _⟩ := beat_core (store s a v)
    cases l with
    | nil => exact hstore
    | cons q l =>
      simp only [storeAll]
      split
      · exact hbeat.trans hstore
      · exact (ih _).trans (hbeat.trans hstore)

/-- Outside the register block a list of stores and its beats differ in the contents of memory alone. -/
theorem storeAll_sameOutside {s : State} {l : List (Word × Byte)} (h : ∀ p ∈ l, isRegister s p.1 = false) :
    SameOutside (beats (l.length - 1) s) (storeAll s l) := by
  obtain ⟨m, hm⟩ := storeAll_outside l s h
  rw [hm]
  exact ⟨rfl, rfl, rfl, rfl, rfl⟩

/-- Every list of stores has the frame the statements name. -/
theorem stores_storeAll (s : State) (l : List (Word × Byte)) : Stores s l (storeAll s l) := by
  have hcore := beats_core (l.length - 1) s
  refine ⟨rfl, storeAll_cpu l s, storeAll_params l s, hcore,
    fun hreg => ⟨storeAll_sameOutside hreg, fun x hx => ?_⟩, peek_storeAll_mem l s⟩
  by_cases hmem : isMemory s x = true
  · rw [peek_storeAll_other l s hreg hmem hx, peek_core hcore hmem]
  · exact peek_of_same (storeAll_sameOutside hreg) (by rw [isMemory_core hcore]; exact Bool.eq_false_iff.mpr hmem)

/-- Stores outside the register block are never refused (R431). -/
theorem accepted_outside (l : List (Word × Byte)) :
    ∀ s : State, (∀ p ∈ l, isRegister s p.1 = false) → accepted s l = true := by
  induction l with
  | nil => intro s _; rfl
  | cons p l ih =>
    intro s hreg
    obtain ⟨a, v⟩ := p
    have ha : isRegister s a = false := hreg (a, v) List.mem_cons_self
    cases l with
    | nil => simp only [accepted, storeRefusal_outside ha, Option.isNone_none]
    | cons q l =>
      simp only [accepted, storeRefusal_outside ha, Option.isNone_none, Bool.true_and]
      rw [ih _ fun p hp => by rw [isRegister_beat_store ha]; exact hreg p (List.mem_cons_of_mem _ hp), Bool.or_true]

/-- A store where nothing holds it changes nothing (R137, R144, R150). -/
theorem store_ignored {s : State} {a : Word} (hholds : holdsStores s a = false) (hreg : isRegister s a = false) (v : Byte) :
    store s a v = s := by
  unfold holdsStores at hholds
  unfold isRegister at hreg
  unfold store
  cases ha : resolve s a with
  | register off => rw [ha] at hreg; cases hreg
  | ram k => rw [ha] at hholds; cases hholds
  | ext n k =>
    cases k with
    | ram => rw [ha] at hholds; cases hholds
    | _ => rfl
  | _ => rfl

/-! The plain registers. -/

theorem hi_join (h l : Byte) : hi (join h l) = h := BitVec.extractLsb'_append_eq_left

theorem lo_join (h l : Byte) : lo (join h l) = l := BitVec.extractLsb'_append_eq_right

/-- A write of the register at `off` that the spec does not refuse. -/
theorem writeByte_register {s x : State} {off : Nat} {w : Byte} (hoff : off < 64 := by decide)
    (haccepted : registerRefusal (registerAt off) w s = none := by rfl)
    (hwrite : writeRegister (registerAt off) w s = x := by rfl) :
    writeByte s (regAddr s off) w = .next x := by
  rw [writeByte_regAddr hoff haccepted, hwrite]

/-- The register at `off`, written as `x` and read back as `v`: the write is accepted and moves no register, and the read
changes nothing. -/
theorem write_read_register {s x : State} {off : Nat} {w v : Byte}
    (hread : readRegister (registerAt off) x = (v, x) := by rfl) (hoff : off < 64 := by decide)
    (haccepted : registerRefusal (registerAt off) w s = none := by rfl)
    (hwrite : writeRegister (registerAt off) w s = x := by rfl) (hinit : x.io.sys.init = s.io.sys.init := by rfl) :
    writeByte s (regAddr s off) w = .next x ∧ readByte x (regAddr s off) = (v, x) := by
  have haddr : regAddr s off = regAddr x off := by unfold regAddr; rw [hinit]
  refine ⟨writeByte_register hoff haccepted hwrite, ?_⟩
  rw [haddr, readByte_regAddr x hoff, hread]

/-- The registers of the factory test facilities, a write of which is refused in the special modes (R55, R85). -/
def isTestRegister : IoReg → Bool
  | .tcntHi | .tcntLo | .test1 => true
  | _ => false

/-- The read-only and the reserved registers (R40). -/
def isReadOnly : IoReg → Bool
  | .reserved | .porte | .tcntHi | .tcntLo | .tic1Hi | .tic1Lo | .tic2Hi | .tic2Lo | .tic3Hi | .tic3Lo => true
  | .spsr | .scsr | .adr1 | .adr2 | .adr3 | .adr4 | .test1 | .config => true
  | _ => false

theorem writeRegister_readOnly {r : IoReg} (h : isReadOnly r = true) (v : Byte) (s : State) : writeRegister r v s = s := by
  cases r
  case reserved | porte | tcntHi | tcntLo | tic1Hi | tic1Lo | tic2Hi | tic2Lo | tic3Hi | tic3Lo | spsr | scsr | adr1 | adr2 |
      adr3 | adr4 | test1 | config => rfl
  all_goals cases h

/-- A write of a read-only register is refused where it opens a test facility alone. -/
theorem registerRefusal_readOnly {r : IoReg} {s : State} (h : isReadOnly r = true)
    (htest : isTestRegister r = true → s.smod = false) (v : Byte) : registerRefusal r v s = none := by
  cases r
  case tcntHi | tcntLo | test1 => exact if_neg (Bool.eq_false_iff.mp (htest rfl))
  case pprog | eprog => cases h
  all_goals rfl

theorem writeByte_readOnly {s : State} {off : Nat} (hoff : off < 64) (hro : isReadOnly (registerAt off) = true)
    (htest : isTestRegister (registerAt off) = true → s.smod = false) (w : Byte) :
    writeByte s (regAddr s off) w = .next s :=
  writeByte_register hoff (registerRefusal_readOnly hro htest w) (writeRegister_readOnly hro w s)

/-- Reads of registers by their offsets. -/
theorem map_readByte_regAddr (s : State) {offs : List Nat} (h : ∀ off ∈ offs, off < 64) :
    offs.map (fun off => readByte s (regAddr s off)) = offs.map fun off => readRegister (registerAt off) s :=
  List.map_congr_left fun off hoff => readByte_regAddr s (h off hoff)

/-- Settles O25: the frame of `storeAll`, and each plain register by its own write and read. -/
theorem storesChangeOnlyTheirBytes : Obligations.StoresChangeOnlyTheirBytes := by
  unfold Obligations.StoresChangeOnlyTheirBytes
  refine ⟨stores_storeAll, fun s l => accepted_outside l s, fun s a v hholds hreg => store_ignored hholds hreg v, ?_⟩
  intro s w p t c inPorts inTimer inSci plain
  have high (x : State) (b l : Byte) : (hi (join b l), x) = (b, x) := by rw [hi_join]
  have low (x : State) (h b : Byte) : (lo (join h b), x) = (b, x) := by rw [lo_join]
  refine ⟨⟨writeByte_register, writeByte_register, writeByte_register⟩,
    write_read_register, write_read_register, write_read_register, write_read_register,
    write_read_register (high _ _ _), write_read_register (low _ _ _),
    write_read_register (high _ _ _), write_read_register (low _ _ _),
    write_read_register (high _ _ _), write_read_register (low _ _ _),
    write_read_register (high _ _ _), write_read_register (low _ _ _),
    write_read_register (high _ _ _), write_read_register (low _ _ _),
    write_read_register, write_read_register, write_read_register,
    write_read_register, write_read_register, ?baud, write_read_register,
    ?readOnly, ?test, ?reads⟩
  case baud =>
    have hmask : w &&& baudMask s.params.device = if isE20 s.params.device then w else w &&& 0xBF := by
      unfold baudMask
      split
      · exact BitVec.and_allOnes
      · rfl
    exact write_read_register (hwrite := by simp only [← hmask]; rfl)
  case readOnly =>
    have hro : ∀ off ∈ ([0x01, 0x06, 0x0A, 0x10, 0x11, 0x12, 0x13, 0x14, 0x15, 0x29, 0x2E, 0x31, 0x32, 0x33, 0x34, 0x37,
        0x38, 0x3F] : List Nat),
        off < 64 ∧ isReadOnly (registerAt off) = true ∧ isTestRegister (registerAt off) = false := by decide
    intro off hoff
    obtain ⟨hlt, hro, htest⟩ := hro off hoff
    exact writeByte_readOnly hlt hro (by rw [htest]; nofun) w
  case test =>
    have hro : ∀ off ∈ ([0x0E, 0x0F, 0x3E] : List Nat), off < 64 ∧ isReadOnly (registerAt off) = true := by decide
    intro hsmod off hoff
    obtain ⟨hlt, hro⟩ := hro off hoff
    exact writeByte_readOnly hlt hro (fun _ => hsmod) w
  case reads =>
    rw [map_readByte_regAddr s (by decide)]
    rfl

/-! Effective addresses and words. -/

theorem join_toNat (h l : Byte) : (join h l).toNat = h.toNat * 256 + l.toNat := by
  have hl := l.isLt
  unfold join
  rw [BitVec.toNat_append, ← Nat.shiftLeft_add_eq_or_of_lt hl, Nat.shiftLeft_eq]

theorem hi_toNat (v : Word) : (hi v).toNat = v.toNat / 256 := by
  have hv := v.isLt
  unfold hi
  rw [BitVec.extractLsb'_toNat, Nat.shiftRight_eq_div_pow]
  omega

theorem lo_toNat (v : Word) : (lo v).toNat = v.toNat % 256 := by
  unfold lo
  rw [BitVec.extractLsb'_toNat]
  rfl

theorem add_zext16_toNat (w : Word) (b : Byte) : (w + zext16 b).toNat = (w.toNat + b.toNat) % 65536 := by
  unfold zext16
  rw [BitVec.toNat_add, BitVec.toNat_setWidth_of_le (by decide)]

/-- A word stored where stores are held, no reset coming between its bytes: it completes, and each byte reads back. -/
theorem writeWord_holdsStores {s : State} {a : Word} (v : Word) (h : holdsStores s a = true)
    (h' : holdsStores s (a + 1) = true) (hquiet : quiet 1 s = true) :
    ∃ t, writeWord s a v = .next t ∧ peek t a = hi v ∧ peek t (a + 1) = lo v := by
  have hholds : ∀ p ∈ [(a, hi v), (a + 1, lo v)], holdsStores s p.1 = true :=
    List.forall_mem_cons.mpr ⟨h, List.forall_mem_singleton.mpr h'⟩
  have hdistinct : ([(a, hi v), (a + 1, lo v)].map Prod.fst).Nodup := by simp
  have hread := peek_storeAll_mem _ s hholds hdistinct hquiet
  exact ⟨storeAll s [(a, hi v), (a + 1, lo v)],
    writeAll_accepted _ s (accepted_outside _ s fun p hp => isRegister_of_holdsStores (hholds p hp)),
    hread (a, hi v) (by simp), hread (a + 1, lo v) (by simp)⟩

/-- Settles O26: the addresses in arithmetic, and a word as its two bytes with the beat between them. -/
theorem addressesAndByteOrder : Obligations.AddressesAndByteOrder := by
  unfold Obligations.AddressesAndByteOrder
  refine ⟨fun s b w => ⟨BitVec.toNat_setWidth_of_le (by decide), rfl, add_zext16_toNat _ _, add_zext16_toNat _ _⟩,
    fun s a v => ⟨fun h h' => ?_, rfl, rfl, fun h h' hquiet => ?_⟩⟩
  · rw [readWord_memory h h']
    exact ⟨join_toNat _ _, rfl⟩
  · obtain ⟨t, hwrite, hhigh, hlow⟩ := writeWord_holdsStores v h h' hquiet
    exact ⟨t, hwrite, by rw [hhigh, hi_toNat], by rw [hlow, lo_toNat]⟩

end Sys2Proof.Machine
end

section
/-! PROOFS. The pushes, the pulls and the bytes modified in place (20_memory.md, R134, R155 to R160). -/

namespace Sys2Proof.Machine

/-- An outcome that writes the bytes of `l` and then sets the CPU is a StoresThen. -/
theorem storesThen_withCpu {o : Result} {u : State} {l : List (Word × Byte)} (g : Cpu → Cpu)
    (ho : o = andThen (writeAll l u) fun t => .next (t.withCpu (g t.cpu))) : StoresThen o u l (g u.cpu) := by
  refine ⟨fun h => ⟨storeAll u l, stores_storeAll u l, ?_⟩, fun h => ?_⟩
  · rw [ho, writeAll_accepted l u h, andThen_next, storeAll_cpu]
    rfl
  · obtain ⟨r, hr⟩ := writeAll_not_accepted l u h
    exact ⟨r, by rw [ho, hr, andThen_refused]⟩

/-- The bytes of a push are stored from SP down, and SP ends below them (R134). -/
theorem pushAll_storesThen (l : List Byte) (s : State) :
    StoresThen (pushAll l s) s (stackCells s.cpu.sp l) { s.cpu with sp := s.cpu.sp - BitVec.ofNat 16 l.length } :=
  storesThen_withCpu (fun c => { c with sp := c.sp - BitVec.ofNat 16 l.length }) rfl

/-- A pull of one byte, as the read the statements speak of. -/
theorem pull8_eq (s : State) :
    pull8 s = ((readAll s [s.cpu.sp + 1]).1.getD 0 0,
      (readAll s [s.cpu.sp + 1]).2.withCpu { s.cpu with sp := s.cpu.sp + 1 }) := pull8_withCpu s s.cpu

/-- A pull of two bytes, as the reads the statements speak of. -/
theorem pull16_eq (s : State) :
    let two := readAll s [s.cpu.sp + 1, s.cpu.sp + 2]
    pull16 s = (join (two.1.getD 0 0) (two.1.getD 1 0), two.2.withCpu { s.cpu with sp := s.cpu.sp + 2 }) :=
  pull16_withCpu s s.cpu rfl

/-- Settles O31: each push is a list of stores, each pull a list of reads, and then SP has moved. -/
theorem pushesAndPulls : Obligations.PushesAndPulls := by
  unfold Obligations.PushesAndPulls
  intro s p word one two w
  refine ⟨⟨pushAll_storesThen [s.cpu.a] s, pushAll_storesThen [s.cpu.b] s,
      pushAll_storesThen [lo s.cpu.ix, hi s.cpu.ix] s, pushAll_storesThen [lo s.cpu.iy, hi s.cpu.iy] s⟩,
    ⟨?pula, ?pulb, ?pulx, ?puly⟩, afterRead_of_frame (readByte_frame _ _), afterRead_of_frame (readByte_frame _ _),
    fun h => ?oneByte, fun h h' => ?twoBytes⟩
  case pula | pulb => simp only [exec, execPula, execPulb, pull8_eq]; rfl
  case pulx | puly => simp only [exec, execPulx, execPuly, pull16_eq]; rfl
  case oneByte => exact readAll_memory [p + 1] s (by simpa using h)
  case twoBytes => exact readAll_memory [p + 1, p + 2] s (by simpa using And.intro h h')

/-! One read, a beat, one store (R157, R160). -/

/-- A read of an operand leaves the CPU, the memories and the map alone. -/
theorem operand8_core (o : Src8) (s : State) : SameCore s (operand8 o s).2 := by
  cases o with
  | imm ii => exact SameCore.refl s
  | mem m => exact readByte_core s _

section
variable (m : Ea) (op : Byte → Ccr → Byte × Ccr) {s : State}

theorem readModifyWrite_due (h : (beat (operand8 (.mem m) s).2).resetDue = true) :
    readModifyWrite m op s = .next (beat (operand8 (.mem m) s).2) := if_pos h

theorem readModifyWrite_notDue (h : (beat (operand8 (.mem m) s).2).resetDue = false) :
    let v := op (operand8 (.mem m) s).1 s.cpu.ccr
    readModifyWrite m op s =
      andThen (writeAll [(effectiveAddress m s, v.1)] (beat (operand8 (.mem m) s).2)) fun t =>
        .next (t.withCpu { t.cpu with ccr := v.2 }) := by
  rw [← operand8_cpu (.mem m) s]
  exact if_neg (Bool.eq_false_iff.mp h)

/-- Where no reset becomes due between the two accesses, a read-modify-write stores what `op` makes of the byte read. -/
theorem readModifyWrite_storesThen (h : (beat (operand8 (.mem m) s).2).resetDue = false) :
    let v := op (operand8 (.mem m) s).1 s.cpu.ccr
    StoresThen (readModifyWrite m op s) (beat (operand8 (.mem m) s).2) [(effectiveAddress m s, v.1)]
      { s.cpu with ccr := v.2 } := by
  have hcpu : (beat (operand8 (.mem m) s).2).cpu = s.cpu := (beat_core _).1.trans (operand8_cpu _ s)
  intro v
  rw [← hcpu]
  exact storesThen_withCpu (fun c => { c with ccr := v.2 }) (readModifyWrite_notDue m op h)

end

/-- An instruction that modifies a byte by `op` modifies it as the statements say, with the result and the flags apart. -/
theorem modifies_of_readModifyWrite {i : Instr} {m : Ea} {f : Byte → Bool → Byte} {g : Byte → Ccr → Ccr}
    (op : Byte → Ccr → Byte × Ccr) (hexec : ∀ s, exec i s = readModifyWrite m op s)
    (hop : ∀ b c, op b c = (f b c.c, g b c)) : Modifies i m f g := by
  intro s
  refine ⟨_, _, reads8 (.mem m) s, (operand8_core (.mem m) s).trans (beat_core _), fun hdue => ?_, fun hdue => ?_⟩
  · rw [hexec, readModifyWrite_due m op hdue]
  · have h := readModifyWrite_storesThen m op hdue
    rw [hop] at h
    rwa [hexec]

/-! The operations, in the forms the statements use. -/

theorem neg8_eq (b : Byte) (c : Ccr) : neg8 b c = (0 - b, { logicFlags (0 - b) c with v := b == 0x80, c := b != 0 }) := by
  have hv : decide (0 - b = 0x80) = (b == 0x80) := by
    rw [Bool.eq_iff_iff, decide_eq_true_iff, beq_iff_eq]
    constructor <;> intro h <;> bv_omega
  have hc : decide (0 - b ≠ 0) = (b != 0) := by
    rw [Bool.eq_iff_iff, decide_eq_true_iff, bne_iff_ne]
    refine not_congr ⟨fun h => ?_, fun h => ?_⟩ <;> bv_omega
  simp only [neg8, hv, hc]
  rfl

theorem com8_eq (b : Byte) (c : Ccr) : com8 b c = (~~~b, { logicFlags (~~~b) c with c := true }) := by
  rw [show com8 b c = (b ^^^ BitVec.allOnes 8, complementFlags (b ^^^ BitVec.allOnes 8) c) from rfl, BitVec.xor_allOnes]
  rfl

theorem shifted_eq (r : Byte) (out : Bool) (c : Ccr) : shifted r out c = (r, rotateFlags r out c) := rfl

/-- An arithmetic shift right keeps bit 7. -/
theorem sshiftRight_one (b : Byte) : b.sshiftRight 1 = b >>> 1 ||| (b &&& 0x80) := by
  have hlow : ∀ k < 7, (0x80 : Byte).getLsbD k = false := by decide
  have htop : (0x80 : Byte).getLsbD 7 = true := by decide
  apply BitVec.eq_of_getLsbD_eq
  intro k hk
  rw [BitVec.getLsbD_sshiftRight, BitVec.getLsbD_or, BitVec.getLsbD_ushiftRight, BitVec.getLsbD_and,
    decide_eq_false (Nat.not_le.mpr hk), Bool.not_false, Bool.true_and]
  obtain rfl | hk7 : k = 7 ∨ k < 7 := by omega
  · rw [if_neg (by decide), BitVec.msb_eq_getLsbD_last, htop, BitVec.getLsbD_of_ge b (1 + 7) (by decide), Bool.and_true,
      Bool.false_or]
  · rw [if_pos (by omega), hlow k hk7, Bool.and_false, Bool.or_false]

/-- Settles O41: every memory form is one read-modify-write, with its own operation. -/
theorem modifiesMemory : Obligations.ModifiesMemory := by
  unfold Obligations.ModifiesMemory
  intro m k
  refine ⟨modifies_of_readModifyWrite (fun _ c => (0, clearFlags c)) (fun _ => rfl) (fun _ _ => rfl),
    modifies_of_readModifyWrite inc8 (fun _ => rfl) (fun _ _ => rfl),
    modifies_of_readModifyWrite dec8 (fun _ => rfl) (fun _ _ => rfl),
    modifies_of_readModifyWrite neg8 (fun _ => rfl) neg8_eq,
    modifies_of_readModifyWrite com8 (fun _ => rfl) com8_eq,
    modifies_of_readModifyWrite asl8 (fun _ => rfl) (fun _ _ => shifted_eq _ _ _),
    modifies_of_readModifyWrite asr8 (fun _ => rfl) (fun b c => ?_),
    modifies_of_readModifyWrite lsr8 (fun _ => rfl) (fun _ _ => shifted_eq _ _ _),
    modifies_of_readModifyWrite rol8 (fun _ => rfl) (fun _ _ => shifted_eq _ _ _),
    modifies_of_readModifyWrite ror8 (fun _ => rfl) (fun _ _ => shifted_eq _ _ _),
    modifies_of_readModifyWrite (logical (fun x b => b ||| x) k) (fun _ => rfl) (fun _ _ => rfl),
    modifies_of_readModifyWrite (logical (fun x b => b &&& ~~~x) k) (fun _ => rfl) (fun _ _ => rfl)⟩
  rw [sshiftRight_one]
  exact shifted_eq _ _ _

end Sys2Proof.Machine
end

section
/-! PROOFS. What a step is made of, said once: updates of the CPU, stores that the spec accepts, and what leaves the CPU, the
memories and the map alone. A relation between states that these keep is kept by every instruction and by every step but a
reset. -/

namespace Sys2Proof.Machine

/-- `t` is `s` after updates of the CPU, accepted stores, and what leaves the core alone: reads, time and the outside
world. -/
inductive Acts : State → State → Prop where
  | core {s t : State} (h : SameCore s t) : Acts s t
  | cpu (s : State) (c : Cpu) : Acts s (s.withCpu c)
  | store {s : State} {a : Word} {v : Byte} (h : storeRefusal s a v = none) : Acts s (store s a v)
  | trans {s t u : State} (h : Acts s t) (k : Acts t u) : Acts s u

/-- Where the outcome `o` is a state, it is one that `s` comes to. -/
def ActsTo (s : State) (o : Result) : Prop := ∀ t, o = .next t → Acts s t

theorem Acts.refl (s : State) : Acts s s := .core (SameCore.refl s)

theorem Acts.beat {s t : State} (h : Acts s t) : Acts s (beat t) := h.trans (.core (beat_core t))

theorem Acts.advance {s t : State} (h : Acts s t) (n : Nat) : Acts s (advance n t) := h.trans (.core (advance_core n t))

/-- The CPU changes after something else. -/
theorem Acts.withCpu {s t : State} (h : Acts s t) (c : Cpu) : Acts s (t.withCpu c) := h.trans (.cpu t c)

/-! Outcomes. -/

theorem ActsTo.next {s t : State} (h : Acts s t) : ActsTo s (.next t) := fun _ e => Host.Outcome.next.inj e ▸ h

theorem ActsTo.after {s t : State} {o : Result} (h : Acts s t) (k : ActsTo t o) : ActsTo s o :=
  fun u e => h.trans (k u e)

theorem ActsTo.andThen {s : State} {o : Result} {f : State → Result} (h : ActsTo s o) (k : ∀ t, ActsTo t (f t)) :
    ActsTo s (andThen o f) := fun u e => by
  obtain ⟨t, ho, hf⟩ := andThen_eq_next e
  exact (h t ho).trans (k t u hf)

theorem ActsTo.andThenBeat {s : State} {o : Result} {f : State → Result} (h : ActsTo s o) (k : ∀ t, ActsTo t (f t)) :
    ActsTo s (andThenBeat o f) := by
  refine h.andThen fun t => ?_
  split
  · exact .next (Acts.refl t).beat
  · exact .after (Acts.refl t).beat (k _)

/-! Accesses. -/

theorem writeByte_acts (s : State) (a : Word) (v : Byte) : ActsTo s (writeByte s a v) := fun _ e => by
  obtain ⟨haccepted, rfl⟩ := writeByte_eq_next.mp e
  exact .store haccepted

theorem writeAll_acts (l : List (Word × Byte)) : ∀ s : State, ActsTo s (writeAll l s) := by
  induction l with
  | nil => intro s; exact .next (Acts.refl s)
  | cons p l ih =>
    intro s
    cases l with
    | nil => exact writeByte_acts s _ _
    | cons q l => exact (writeByte_acts s _ _).andThenBeat ih

theorem pushAll_acts (l : List Byte) (s : State) : ActsTo s (pushAll l s) :=
  (writeAll_acts _ s).andThen fun t => .next (.cpu t _)

theorem pull8_acts (s : State) : Acts s (pull8 s).2 :=
  (Acts.cpu s { s.cpu with sp := s.cpu.sp + 1 }).trans (.core (readByte_core _ _))

theorem pull16_acts (s : State) : Acts s (pull16 s).2 := (pull8_acts s).beat.trans (pull8_acts _)

theorem Acts.pull8 {s t : State} (h : Acts s t) : Acts s (pull8 t).2 := h.trans (pull8_acts t)

theorem Acts.pull16 {s t : State} (h : Acts s t) : Acts s (pull16 t).2 := h.trans (pull16_acts t)

theorem fetch8_acts (s : State) : Acts s (fetch8 s).2 :=
  ((Acts.core (readByte_core s s.cpu.pc)).withCpu { (readByte s s.cpu.pc).2.cpu with pc := _ }).trans (.core (pause_core _))

theorem fetchBytes_acts (n : Nat) : ∀ s : State, Acts s (fetchBytes n s).2 := by
  induction n with
  | zero => exact Acts.refl
  | succ n ih => intro s; exact (fetch8_acts s).trans (ih _)

theorem fetchInstruction_acts (s : State) : Acts s (fetchInstruction s).2 := by
  simp only [fetchInstruction]
  split
  · exact (fetch8_acts s).trans (fetchBytes_acts _ _)
  · exact ((fetch8_acts s).trans (fetch8_acts _)).trans (fetchBytes_acts _ _)

/-! Exceptions. -/

theorem enterVector_acts (offset : Word) (setX : Bool) (s : State) : Acts s (enterVector offset setX s) :=
  ((Acts.cpu s (maskedCpu s.cpu setX)).trans (.core (readWord_core _ _))).withCpu _

theorem takeException_acts (rtn offset : Word) (setX : Bool) (s : State) : ActsTo s (takeException rtn offset setX s) :=
  (pushAll_acts _ s).andThen fun t => .next ((Acts.refl t).beat.trans (enterVector_acts _ _ _))

theorem returnFromException_acts (s : State) : Acts s (returnFromException s) :=
  (Acts.refl s).pull8.withCpu _ |>.beat.pull8.withCpu _ |>.beat.pull8.withCpu _ |>.beat.pull16.withCpu _
    |>.beat.pull16.withCpu _ |>.beat.pull16.withCpu _

/-! The shapes the instructions share. -/

theorem accumulate_acts (r : Acc) (f : Byte → Byte → Ccr → Byte × Ccr) (o : Src8) (s : State) :
    ActsTo s (accumulate r f o s) := by
  cases r <;> exact .next ((Acts.core (operand8_core o s)).withCpu _)

theorem unary_acts (r : Acc) (f : Byte → Ccr → Byte × Ccr) (s : State) : ActsTo s (unary r f s) := by
  cases r <;> exact .next (Acts.cpu s _)

theorem readModifyWrite_acts (m : Ea) (f : Byte → Ccr → Byte × Ccr) (s : State) : ActsTo s (readModifyWrite m f s) := by
  have hread : Acts s (beat (operand8 (.mem m) s).2) := (Acts.core (operand8_core _ s)).beat
  cases hdue : (beat (operand8 (.mem m) s).2).resetDue with
  | true =>
    rw [readModifyWrite_due m f hdue]
    exact .next hread
  | false =>
    rw [readModifyWrite_notDue m f hdue]
    exact .after hread ((writeAll_acts _ _).andThen fun t => .next (.cpu t _))

theorem compare8_acts (r : Acc) (f : Byte → Byte → Ccr → Byte × Ccr) (o : Src8) (s : State) :
    ActsTo s (compare8 r f o s) := .next ((Acts.core (operand8_core o s)).withCpu _)

theorem accumulateD_acts (f : Word → Word → Ccr → Word × Ccr) (o : Src16) (s : State) : ActsTo s (accumulateD f o s) :=
  .next ((Acts.core (operand16_core o s)).withCpu _)

theorem compare16_acts (reg : State → Word) (o : Src16) (s : State) : ActsTo s (compare16 reg o s) :=
  .next ((Acts.core (operand16_core o s)).withCpu _)

theorem store8_acts (v : Byte) (m : Ea) (s : State) : ActsTo s (store8 v m s) :=
  (writeByte_acts s _ _).andThen fun t => .next (.cpu t _)

theorem store16_acts (v : Word) (m : Ea) (s : State) : ActsTo s (store16 v m s) :=
  (writeAll_acts _ s).andThen fun t => .next (.cpu t _)

theorem branch_acts (taken : Bool) (rr : Byte) (s : State) : ActsTo s (branch taken rr s) := by
  cases taken
  · exact .next (Acts.refl s)
  · exact .next (.cpu s _)

theorem branchOnByte_acts (test : Byte → Bool) (m : Ea) (rr : Byte) (s : State) : ActsTo s (branchOnByte test m rr s) :=
  .after (.core (readByte_core s _)) (branch_acts _ rr _)

theorem call_acts (target : Word) (s : State) : ActsTo s (call target s) :=
  (pushAll_acts _ s).andThen fun t => .next (.cpu t _)

/-! The instructions. -/

theorem execDaa_acts (s : State) : ActsTo s (execDaa s) := by
  unfold execDaa
  simp only
  split <;> exact .next ((Acts.cpu s _).trans (.core ⟨rfl, rfl, rfl, rfl, rfl, rfl⟩))

theorem noQuotient_acts (v c : Bool) (s : State) : Acts s (noQuotient v c s) :=
  (Acts.core (s := s) (t := s.drawn 1) ⟨rfl, rfl, rfl, rfl, rfl, rfl⟩).withCpu _

theorem quotient_acts (n d : Nat) (s : State) : Acts s (quotient n d s) := .cpu s _

theorem execFdiv_acts (s : State) : ActsTo s (execFdiv s) := by
  refine .next ?_
  split
  · exact noQuotient_acts _ _ s
  · split
    · exact noQuotient_acts _ _ s
    · exact quotient_acts _ _ s

theorem execIdiv_acts (s : State) : ActsTo s (execIdiv s) := by
  refine .next ?_
  split
  · exact noQuotient_acts _ _ s
  · exact quotient_acts _ _ s

theorem execStop_acts (s : State) : ActsTo s (execStop s) := by
  refine .next ?_
  split
  · exact Acts.refl s
  · unfold clocksStopped
    split
    · exact (Acts.cpu s { s.cpu with run := .stopped }).trans (.core (raiseReset_core _ _))
    · exact .cpu s _

theorem execTest_acts (s : State) : ActsTo s (execTest s) := by
  unfold execTest
  split
  · exact .next (.cpu s _)
  · exact takeException_acts _ _ _ s

/-- What an instruction comes to, by its shape. -/
theorem exec_acts (i : Instr) (s : State) : ActsTo s (exec i s) := by
  cases i <;> simp only [exec]
  case clr | inc | dec | neg | com | asl | asr | lsr | rol | ror | bset | bclr => exact readModifyWrite_acts _ _ s
  case ldaa | ldab => exact .next ((Acts.core (operand8_core _ s)).withCpu _)
  case ldd | lds | ldx | ldy => exact .next ((Acts.core (operand16_core _ s)).withCpu _)
  case adca | adcb | adda | addb | sbca | sbcb | suba | subb | anda | andb | oraa | orab | eora | eorb =>
    exact accumulate_acts _ _ _ s
  case cmpa | cmpb | bita | bitb => exact compare8_acts _ _ _ s
  case addd | subd => exact accumulateD_acts _ _ s
  case cpd | cpx | cpy => exact compare16_acts _ _ s
  case clra | clrb | aba | sba | inca | incb | deca | decb | nega | negb | coma | comb | asla | aslb | asra | asrb | lsra |
      lsrb | rola | rolb | rora | rorb =>
    exact unary_acts _ _ s
  case tst => exact .next ((Acts.core (readByte_core s _)).withCpu _)
  case psha | pshb | pshx | pshy => exact pushAll_acts _ s
  case pula | pulb => exact .next ((pull8_acts s).withCpu _)
  case pulx | puly | rts => exact .next ((pull16_acts s).withCpu _)
  case staa | stab => exact store8_acts _ _ s
  case std | sts | stx | sty => exact store16_acts _ _ s
  case bcc | bcs | beq | bge | bgt | bhi | ble | bls | blt | bmi | bne | bpl | bra | brn | bvc | bvs => exact branch_acts _ _ s
  case brclr | brset => exact branchOnByte_acts _ _ _ s
  case bsr | jsr => exact call_acts _ s
  case daa => exact execDaa_acts s
  case fdiv => exact execFdiv_acts s
  case idiv => exact execIdiv_acts s
  case nop => exact .next (Acts.refl s)
  case rti => exact .next (returnFromException_acts s)
  case stop => exact execStop_acts s
  case swi => exact takeException_acts _ _ _ s
  case test => exact execTest_acts s
  case wai => exact (pushAll_acts _ s).andThen fun t => .next (.cpu t _)
  all_goals exact .next (.cpu s _)

/-! The step. -/

theorem spend_acts {s : State} {o : Result} (h : ActsTo s o) (start n : Nat) : ActsTo s (spend start n o) := by
  refine h.andThen fun t => .next ?_
  split
  · exact Acts.refl t
  · exact (Acts.refl t).advance _

theorem runInstruction_acts (s : State) : ActsTo s (runInstruction s) := by
  have hfetch : Acts s (fetchInstruction (s.setICleared false)).2 :=
    (Acts.cpu s { s.cpu with iCleared := false }).trans (fetchInstruction_acts _)
  unfold runInstruction
  simp only
  split
  · exact .next hfetch
  · split
    · exact spend_acts (.after hfetch (exec_acts _ _)) _ _
    · exact spend_acts (.after hfetch (takeException_acts _ _ _ _)) _ _

theorem acknowledge_core (r : Request) (s : State) : SameCore s (r.acknowledge s) := by
  unfold Request.acknowledge
  split <;> exact ⟨rfl, rfl, rfl, rfl, rfl, rfl⟩

theorem takeInterrupt_acts (r : Request) (s : State) : ActsTo s (takeInterrupt r s) :=
  .after ((Acts.cpu s { s.cpu with iCleared := false }).trans (.core (acknowledge_core r _))) (takeException_acts _ _ _ _)

theorem recognise_core (s : State) : SameCore s (recognise s).2 := by
  unfold recognise
  split
  · split <;> exact ⟨rfl, rfl, rfl, rfl, rfl, rfl⟩
  · exact SameCore.refl s

theorem runningStep_acts (s : State) : ActsTo s (runningStep s) := by
  have hcore := recognise_core s
  unfold runningStep
  split
  · next r t e =>
    rw [e] at hcore
    exact .after (.core hcore) (spend_acts (takeInterrupt_acts r t) _ _)
  · next t e =>
    rw [e] at hcore
    exact .after (.core hcore) (runInstruction_acts t)

theorem waitingStep_acts (s : State) : ActsTo s (waitingStep s) := by
  unfold waitingStep
  split
  · exact spend_acts (.next ((Acts.core (acknowledge_core _ s)).trans (enterVector_acts _ _ _))) _ _
  · exact .next ((Acts.refl s).advance 1)

theorem leaveStop_acts (w : StopWake) (s : State) : ActsTo s (leaveStop w s) := by
  have hrun : Acts s (s.setRun .running) := .cpu s _
  cases w with
  | xirq => exact .after hrun (spend_acts (takeInterrupt_acts _ _) _ _)
  | irq => exact .after hrun (spend_acts (takeInterrupt_acts _ _) _ _)
  | resume => exact .next hrun

theorem stoppedStep_acts (s : State) : ActsTo s (stoppedStep s) := by
  unfold stoppedStep
  split
  · split
    · exact .next (.cpu s _)
    · exact leaveStop_acts _ s
  · exact .next (Acts.refl s)

theorem startingStep_acts (left : Nat) (w : StopWake) (s : State) : ActsTo s (startingStep left w s) := by
  cases left with
  | zero => exact leaveStop_acts w s
  | succ k => exact .next ((Acts.cpu s { s.cpu with run := .starting k w }).advance 1)

/-- A step that is not a reset. -/
theorem step_acts {s : State} (h : (takeInputs s).io.sys.pendingReset = none) : ActsTo s (step s) := by
  refine .after (o := stepFrom (takeInputs s)) (.core (takeInputs_core s)) ?_
  simp only [stepFrom, h]
  split
  · exact runningStep_acts _
  · exact waitingStep_acts _
  · exact stoppedStep_acts _
  · exact startingStep_acts _ _ _
  · exact .next ((Acts.refl _).advance 1)

/-- A step that is a reset, where the part does not come up secured: the registers are reset, and PC is loaded. -/
theorem step_reset {s t : State} {k : ResetKind} (h : (takeInputs s).io.sys.pendingReset = some k) (ht : step s = .next t) :
    Acts (resetRegisters (takeInputs s)) t := by
  simp only [step, stepFrom, h, performReset] at ht
  split at ht
  · obtain rfl := Host.Outcome.next.inj ht
    exact (Acts.core (readPair_core (fun u => SameCore.refl u) _ _)).withCpu _
  · cases ht

/-! Non-volatile memory (R137, R150). -/

/-- The non-volatile memories and the cells of CONFIG hold the same in `t` as in `s`. -/
def SameNonVolatile (s t : State) : Prop :=
  t.mem.rom = s.mem.rom ∧ t.mem.eeprom = s.mem.eeprom ∧ t.mem.bootRom = s.mem.bootRom ∧ t.params = s.params

theorem SameNonVolatile.trans {s t u : State} (h : SameNonVolatile s t) (k : SameNonVolatile t u) : SameNonVolatile s u := by
  obtain ⟨hrom, heeprom, hboot, hparams⟩ := h
  obtain ⟨krom, keeprom, kboot, kparams⟩ := k
  exact ⟨krom.trans hrom, keeprom.trans heeprom, kboot.trans hboot, kparams.trans hparams⟩

theorem SameNonVolatile.of_mem_params {s t : State} (hmem : t.mem = s.mem) (hparams : t.params = s.params) :
    SameNonVolatile s t := by
  unfold SameNonVolatile
  rw [hmem, hparams]
  exact ⟨rfl, rfl, rfl, rfl⟩

/-- A store reaches internal RAM, external RAM and the registers alone. -/
theorem store_sameNonVolatile (s : State) (a : Word) (v : Byte) : SameNonVolatile s (store s a v) := by
  unfold store
  cases resolve s a with
  | register off =>
    have h := writeRegister_frame (registerAt off) v s
    exact .of_mem_params h.mem h.params
  | ext n k => cases k <;> exact ⟨rfl, rfl, rfl, rfl⟩
  | _ => exact ⟨rfl, rfl, rfl, rfl⟩

theorem Acts.sameNonVolatile {s t : State} (h : Acts s t) : SameNonVolatile s t := by
  induction h with
  | core h =>
    obtain ⟨_, hmem, hparams, _⟩ := h
    exact .of_mem_params hmem hparams
  | cpu s c => exact .of_mem_params rfl rfl
  | store _ => exact store_sameNonVolatile _ _ _
  | trans _ _ ih ih' => exact ih.trans ih'

/-- Settles O21: a reset keeps the memories and the parameters, and every other step is made of acts that do. -/
theorem nonVolatileMemoryNeverChanges : Obligations.NonVolatileMemoryNeverChanges := by
  unfold Obligations.NonVolatileMemoryNeverChanges
  intro s t ht
  cases hreset : (takeInputs s).io.sys.pendingReset with
  | none => exact (step_acts hreset t ht).sameNonVolatile
  | some k =>
    have hinputs : Acts s (takeInputs s) := .core (takeInputs_core s)
    have hregisters : SameNonVolatile (takeInputs s) (resetRegisters (takeInputs s)) := .of_mem_params rfl rfl
    exact (hinputs.sameNonVolatile.trans hregisters).trans (step_reset hreset ht).sameNonVolatile

end Sys2Proof.Machine
end

section
/-! PROOFS. The opcode maps (30_encoding.md, R180 to R185): the row of an opcode, the bytes a row reads, and the opcodes that
have none. -/

namespace Sys2Proof

/-! The row of an opcode. -/

/-- The column of page 1 whose opcodes begin with the hexadecimal digit `k` (R181). -/
def page1Column : Nat → List OpRow
  | 0x0 => page1Column0
  | 0x1 => page1Column1
  | 0x2 => page1Column2
  | 0x3 => page1Column3
  | 0x4 => page1Column4
  | 0x5 => page1Column5
  | 0x6 => page1Column6
  | 0x7 => page1Column7
  | 0x8 => page1Column8
  | 0x9 => page1Column9
  | 0xA => page1ColumnA
  | 0xB => page1ColumnB
  | 0xC => page1ColumnC
  | 0xD => page1ColumnD
  | 0xE => page1ColumnE
  | 0xF => page1ColumnF
  | _ => []

theorem page1Rows_eq_flatMap : page1Rows = (List.range 16).flatMap page1Column := by
  have hrange : List.range 16 = [0, 1, 2, 3, 4, 5, 6, 7, 8, 9, 10, 11, 12, 13, 14, 15] := rfl
  simp only [hrange, List.flatMap_cons, List.flatMap_nil, page1Column, page1Rows, List.append_assoc, List.append_nil]

theorem opcode_page1Column : ∀ k < 16, ∀ r ∈ page1Column k, r.opcode.toNat / 16 = k := by decide

/-- A search that only one element of the list can answer. -/
theorem findSome?_eq_of_forall_ne {α β : Type} {f : α → Option β} {l : List α} {a : α} (ha : a ∈ l)
    (h : ∀ b ∈ l, b ≠ a → f b = none) : l.findSome? f = f a := by
  obtain ⟨as, bs, rfl, hfirst⟩ := List.eq_append_cons_of_mem ha
  have has : as.findSome? f = none :=
    List.findSome?_eq_none_iff.mpr fun b hb => h b (by simp [hb]) (by rintro rfl; exact hfirst hb)
  rw [List.findSome?_append, has, Option.none_or, List.findSome?_cons]
  cases hfa : f a with
  | some r => rfl
  | none =>
    refine List.findSome?_eq_none_iff.mpr fun b hb => ?_
    by_cases hba : b = a
    · rw [hba, hfa]
    · exact h b (by simp [hb]) hba

/-- The row of an opcode of page 1 stands in the column of that opcode. -/
theorem lookup_page1 (op : Byte) :
    lookup .page1 op = (page1Column (op.toNat / 16)).find? fun r => r.opcode = op := by
  rw [lookup, pageRows, page1Rows_eq_flatMap, List.find?_flatMap]
  have hcolumn : op.toNat / 16 ∈ List.range 16 := List.mem_range.mpr (by have := op.isLt; omega)
  refine findSome?_eq_of_forall_ne hcolumn fun k hk hne => List.find?_eq_none.mpr fun r hr => ?_
  rw [decide_eq_true_eq]
  rintro rfl
  exact hne (opcode_page1Column k (List.mem_range.mp hk) r hr).symm

/-- The rows of a page among which an opcode is found: on page 1 those of its column. -/
def rowsFor : Page → Byte → List OpRow
  | .page1, op => page1Column (op.toNat / 16)
  | .page2, _ => page2Rows
  | .page3, _ => page3Rows
  | .page4, _ => page4Rows

theorem lookup_eq_find? (p : Page) (op : Byte) : lookup p op = (rowsFor p op).find? fun r => r.opcode = op := by
  cases p with
  | page1 => exact lookup_page1 op
  | page2 | page3 | page4 => rfl

theorem lookup_eq_none_iff {p : Page} {op : Byte} : lookup p op = none ↔ op ∉ (pageRows p).map OpRow.opcode := by
  simp [lookup, List.find?_eq_none]

theorem lookup_eq_some {p : Page} {op : Byte} {r : OpRow} (h : lookup p op = some r) : r ∈ pageRows p ∧ r.opcode = op :=
  ⟨List.mem_of_find?_eq_some h, of_decide_eq_true (List.find?_some (p := fun r : OpRow => decide (r.opcode = op)) h)⟩

/-! The prebytes. -/

/-- The bytes before the opcode of an instruction of the page (R180). -/
def prebytes : Page → List Byte
  | .page1 => []
  | .page2 => [0x18]
  | .page3 => [0x1A]
  | .page4 => [0xCD]

theorem prebytes_of_pageOfPrebyte {b : Byte} {p : Page} (h : pageOfPrebyte b = some p) : prebytes p = [b] := by
  unfold pageOfPrebyte at h
  split at h
  · next hb => cases h; rw [hb]; rfl
  · split at h
    · next hb => cases h; rw [hb]; rfl
    · split at h
      · next hb => cases h; rw [hb]; rfl
      · cases h

/-- A prebyte is no opcode of page 1. -/
theorem pageOfPrebyte_of_lookup {op : Byte} {r : OpRow} (h : lookup .page1 op = some r) : pageOfPrebyte op = none := by
  have h2 : op ≠ 0x18#8 := by rintro rfl; cases h
  have h3 : op ≠ 0x1A#8 := by rintro rfl; cases h
  have h4 : op ≠ 0xCD#8 := by rintro rfl; cases h
  simp only [pageOfPrebyte, if_neg h2, if_neg h3, if_neg h4]

/-! Decoding, from the row on. -/

/-- The bytes of an opcode with a row decode as that row reads what follows it. -/
theorem decode_of_lookup {p : Page} {op : Byte} {r : OpRow} (h : lookup p op = some r) (ops : List Byte) :
    decode (prebytes p ++ op :: ops) = r.finish ops := by
  have hon : decodeOn p op ops = r.finish ops := by simp only [decodeOn, h]
  cases p with
  | page1 =>
    have hpage : pageOfPrebyte op = none := pageOfPrebyte_of_lookup h
    simp only [prebytes, List.nil_append, decode, hpage, hon]
  | page2 | page3 | page4 => exact hon

theorem decodeOn_eq_ok {p : Page} {op : Byte} {ops rest : List Byte} {i : Instr}
    (h : decodeOn p op ops = .ok (i, rest)) : ∃ r, lookup p op = some r ∧ r.finish ops = .ok (i, rest) := by
  unfold decodeOn at h
  split at h
  · cases h
  · next r hrow => exact ⟨r, hrow, h⟩

/-- What decodes to an instruction is the prebyte of a page, an opcode with a row, and the bytes that row reads. -/
theorem decode_eq_ok {bs rest : List Byte} {i : Instr} (h : decode bs = .ok (i, rest)) :
    ∃ p op ops r, bs = prebytes p ++ op :: ops ∧ lookup p op = some r ∧ r.finish ops = .ok (i, rest) := by
  cases bs with
  | nil => cases h
  | cons b0 bs =>
    simp only [decode] at h
    cases hpage : pageOfPrebyte b0 with
    | none =>
      simp only [hpage] at h
      obtain ⟨r, hrow, hfinish⟩ := decodeOn_eq_ok h
      exact ⟨.page1, b0, bs, r, rfl, hrow, hfinish⟩
    | some p =>
      simp only [hpage] at h
      cases bs with
      | nil => cases h
      | cons op ops =>
        obtain ⟨r, hrow, hfinish⟩ := decodeOn_eq_ok h
        exact ⟨p, op, ops, r, by rw [prebytes_of_pageOfPrebyte hpage]; rfl, hrow, hfinish⟩

/-! No row. -/

theorem finish_ne_undefined (r : OpRow) (ops : List Byte) (p : Page) (op : Byte) :
    r.finish ops ≠ .error (.undefinedOpcode p op) := by
  unfold OpRow.finish
  split <;> nofun

theorem decodeOn_eq_undefined_iff {p q : Page} {op b : Byte} {ops : List Byte} :
    decodeOn p op ops = .error (.undefinedOpcode q b) ↔ (p = q ∧ op = b) ∧ lookup p op = none := by
  unfold decodeOn
  cases lookup p op with
  | none => simp
  | some r => simp [finish_ne_undefined]

theorem decode_prebyte_eq_undefined_iff {b op : Byte} {p : Page} {rest : List Byte} (h : pageOfPrebyte b = some p) :
    decode (b :: op :: rest) = .error (.undefinedOpcode p op) ↔ lookup p op = none := by
  simp only [decode, h, decodeOn_eq_undefined_iff, and_self, true_and]

theorem decode_eq_undefined_page1_iff {b : Byte} {rest : List Byte} :
    decode (b :: rest) = .error (.undefinedOpcode .page1 b) ↔ pageOfPrebyte b = none ∧ lookup .page1 b = none := by
  cases hp : pageOfPrebyte b with
  | none => simp only [decode, hp, decodeOn_eq_undefined_iff, and_self, true_and]
  | some p =>
    have hpage : p ≠ .page1 := by
      rintro rfl
      cases prebytes_of_pageOfPrebyte hp
    cases rest <;> simp [decode, hp, decodeOn_eq_undefined_iff, hpage]

/-- All but the listed ones of the 256 bytes, counted. -/
theorem countP_not_contains {l : List Byte} (h : l.Nodup) :
    ((List.range 256).countP fun n => !l.contains (BitVec.ofNat 8 n)) = 256 - l.length := by
  have hbytes : ((List.range 256).map (BitVec.ofNat 8)).Nodup := by
    refine List.pairwise_map.mpr (List.nodup_range.imp_of_mem fun {x y} hx hy hne hxy => hne ?_)
    have hnat := congrArg BitVec.toNat hxy
    simp only [List.mem_range, BitVec.toNat_ofNat] at hx hy hnat
    omega
  have hlisted : (((List.range 256).map (BitVec.ofNat 8)).filter l.contains).Perm l := by
    refine (List.perm_ext_iff_of_nodup (hbytes.filter _) h).mpr fun b => ?_
    have hb : b ∈ (List.range 256).map (BitVec.ofNat 8) :=
      List.mem_map.mpr ⟨b.toNat, List.mem_range.mpr b.isLt, by simp⟩
    simp only [List.mem_filter, hb, true_and, List.contains_iff_mem]
  have hcount : (List.range 256).countP (fun n => l.contains (BitVec.ofNat 8 n)) = l.length := by
    rw [← hlisted.length_eq, ← List.countP_eq_length_filter, List.countP_map]
    rfl
  have hall := List.length_eq_countP_add_countP (fun n => l.contains (BitVec.ofNat 8 n)) (l := List.range 256)
  simp only [Bool.not_eq_true, Bool.decide_eq_false, List.length_range, hcount] at hall
  omega

/-- Settles O4: an opcode is refused as undefined exactly where its page has no row for it, and the opcodes of the rows are
the listed ones. -/
theorem undefinedOpcodesAreExactlyThese : Obligations.UndefinedOpcodesAreExactlyThese := by
  unfold Obligations.UndefinedOpcodesAreExactlyThese
  intro second2 second3 second4 undefined
  refine ⟨fun b rest => ?page1, fun op rest => ⟨?page2, ?page3, ?page4⟩, ⟨?count2, ?count3, ?count4⟩,
    ?prebytes, ?test⟩
  case page1 =>
    simp only [decode_eq_undefined_page1_iff, lookup_page1]
    revert b
    decide
  case page2 => exact (decode_prebyte_eq_undefined_iff rfl).trans lookup_eq_none_iff
  case page3 =>
    have hrows : ((pageRows .page3).map OpRow.opcode).Perm second3 := by decide
    rw [decode_prebyte_eq_undefined_iff rfl, lookup_eq_none_iff, hrows.mem_iff]
  case page4 => exact (decode_prebyte_eq_undefined_iff rfl).trans lookup_eq_none_iff
  case count2 => exact countP_not_contains (l := second2) (by decide)
  case count3 => exact countP_not_contains (l := second3) (by decide)
  case count4 => exact countP_not_contains (l := second4) (by decide)
  case prebytes =>
    intro b op p rest h
    rw [decode_prebyte_eq_undefined_iff h, Option.isNone_iff_eq_none]
  case test =>
    intro s hnormal
    simp only [Machine.exec, Machine.execTest, hnormal, Bool.false_eq_true, if_false]

end Sys2Proof
end

section
/-! PROOFS. The round trip of the encoder and the decoder (30_encoding.md, R170 to R184, R189): each row is what the encoder
writes for its instructions, and each word the encoder writes has its row. -/

namespace Sys2Proof

open Sys2Proof.Machine (hi lo join hi_join lo_join hi_toNat lo_toNat join_toNat)

theorem join_hi_lo (v : Word) : join (hi v) (lo v) = v :=
  BitVec.eq_of_toNat_eq (by rw [join_toNat, hi_toNat, lo_toNat]; omega)

/-! From the decoder to the encoder, row by row. -/

/-- The encoder writes the instruction as the opcode `op` of the page and these operand bytes. -/
def Writes (p : Page) (op : Byte) (ops : List Byte) (i : Instr) : Prop :=
  i.wellFormed = true ∧ encode i = prebytes p ++ op :: ops

/-- The encoder writes each instruction of the row as the row reads it. -/
def OpRow.Encodes (p : Page) (r : OpRow) : Prop :=
  ∀ x y z, Writes p r.opcode ([x, y, z].take r.operands) (r.build x y z)

section
variable {p : Page} {op : Byte}

/-- A row that reads a 16-bit value, in terms of that value. -/
theorem encodes_word_iff {g : Word → Instr} :
    OpRow.Encodes p ⟨op, 2, fun x y _ => g (join x y)⟩ ↔ ∀ v, Writes p op [hi v, lo v] (g v) := by
  refine ⟨fun h v => ?_, fun h x y z => ?_⟩
  · have hv : Writes p op [hi v, lo v] (g (join (hi v) (lo v))) := h (hi v) (lo v) 0
    rwa [join_hi_lo] at hv
  · have hxy := h (join x y)
    rwa [hi_join, lo_join] at hxy

theorem imm16_encodes_iff {f : Src16 → Instr} :
    (imm16 op f).Encodes p ↔ ∀ v, Writes p op [hi v, lo v] (f (.imm v)) :=
  encodes_word_iff (g := fun v => f (.imm v))

theorem ext16_encodes_iff {f : Src16 → Instr} :
    (ext16 op f).Encodes p ↔ ∀ v, Writes p op [hi v, lo v] (f (.mem (.ext v))) :=
  encodes_word_iff (g := fun v => f (.mem (.ext v)))

theorem ext8_encodes_iff {f : Src8 → Instr} :
    (ext8 op f).Encodes p ↔ ∀ v, Writes p op [hi v, lo v] (f (.mem (.ext v))) :=
  encodes_word_iff (g := fun v => f (.mem (.ext v)))

theorem extM_encodes_iff {f : Ea → Instr} :
    (extM op f).Encodes p ↔ ∀ v, Writes p op [hi v, lo v] (f (.ext v)) :=
  encodes_word_iff (g := fun v => f (.ext v))

end

/-- Every row of the four maps is what the encoder writes: row by row, the encoder's bytes for the instructions of the row
are its opcode and its operand bytes. -/
theorem encodes_of_mem_pageRows {p : Page} : ∀ r ∈ pageRows p, r.Encodes p := by
  cases p
  all_goals
    simp only [pageRows, page1Rows, page1Column0, page1Column1, page1Column2, page1Column3, page1Column4, page1Column5,
      page1Column6, page1Column7, page1Column8, page1Column9, page1ColumnA, page1ColumnB, page1ColumnC, page1ColumnD,
      page1ColumnE, page1ColumnF, page2Rows, page2Low, page2Mid, page2High, page3Rows, page4Rows, List.forall_mem_append,
      List.forall_mem_cons, List.not_mem_nil, false_imp_iff, implies_true, and_true, imm16_encodes_iff, ext16_encodes_iff,
      ext8_encodes_iff, extM_encodes_iff]
    unfold OpRow.Encodes
    and_intros <;> intros <;> exact ⟨rfl, rfl⟩

/-! What a row reads. -/

theorem operands_le_three (p : Page) : ∀ r ∈ pageRows p, r.operands ≤ 3 := by
  cases p with
  | page1 =>
    simp only [pageRows, page1Rows, List.forall_mem_append]
    and_intros <;> decide
  | page2 | page3 | page4 => decide

theorem finish_eq_ok {r : OpRow} {ops rest : List Byte} {i : Instr} (h : r.finish ops = .ok (i, rest)) :
    r.operands ≤ ops.length ∧ i = r.build (ops.getD 0 0) (ops.getD 1 0) (ops.getD 2 0) ∧ rest = ops.drop r.operands := by
  unfold OpRow.finish at h
  split at h
  · cases h
  · next hlen =>
    cases h
    exact ⟨Nat.not_lt.mp hlen, rfl, rfl⟩

/-- The first three bytes, as far as a row reads them. -/
theorem take_getD (ops : List Byte) {n : Nat} (h3 : n ≤ 3) (hlen : n ≤ ops.length) :
    [ops.getD 0 0, ops.getD 1 0, ops.getD 2 0].take n = ops.take n := by
  match n, ops, h3, hlen with
  | 0, _, _, _ => rfl
  | 1, _ :: _, _, _ => rfl
  | 2, _ :: _ :: _, _, _ => rfl
  | 3, _ :: _ :: _ :: _, _, _ => rfl

/-- Settles O3: the row an opcode is decoded by is what the encoder writes for its instructions. -/
theorem encodeInvertsDecode : Obligations.EncodeInvertsDecode := by
  unfold Obligations.EncodeInvertsDecode
  intro bs i rest hdec
  obtain ⟨p, op, ops, r, rfl, hlookup, hfinish⟩ := decode_eq_ok hdec
  obtain ⟨hmem, rfl⟩ := lookup_eq_some hlookup
  obtain ⟨hlen, rfl, rfl⟩ := finish_eq_ok hfinish
  obtain ⟨hwf, hencode⟩ := encodes_of_mem_pageRows r hmem (ops.getD 0 0) (ops.getD 1 0) (ops.getD 2 0)
  refine ⟨hwf, ?_⟩
  rw [hencode, take_getD ops (operands_le_three p r hmem) hlen, List.append_assoc, List.cons_append,
    List.take_append_drop]

/-! From the encoder to the decoder, form by form. -/

/-- The row is the one that its opcode finds on the page. -/
def OpRow.StandsOn (p : Page) (r : OpRow) : Prop := ((rowsFor p r.opcode).find? fun q => q.opcode = r.opcode) = some r

/-- A word decodes as the row of its opcode reads it. -/
theorem OpRow.StandsOn.decode {p : Page} {r : OpRow} (h : r.StandsOn p) {ops rest : List Byte} {i : Instr}
    (hfinish : r.finish ops = .ok (i, rest)) : decode (prebytes p ++ r.opcode :: ops) = .ok (i, rest) := by
  rw [decode_of_lookup ((lookup_eq_find? p r.opcode).trans h), hfinish]

/-- The four forms of a memory operand stand on these pages, the opcode of the DIR form being `op` (R181). -/
def MemRows (p px py : Page) (op : Byte) (f : Ea → Instr) : Prop :=
  (dirM op f).StandsOn p ∧ (extM (op + 0x20) f).StandsOn p ∧ (indXM (op + 0x10) f).StandsOn px ∧
    (indYM (op + 0x10) f).StandsOn py

theorem decode_encodeMem (p px py : Page) {op : Byte} {f : Ea → Instr} (h : MemRows p px py op f) {m : Ea}
    {rest : List Byte} : decode (encodeMem (prebytes p) (prebytes px) (prebytes py) op m ++ rest) = .ok (f m, rest) := by
  obtain ⟨hdir, hext, hindX, hindY⟩ := h
  cases m <;> rw [encodeMem, List.append_assoc]
  case dir dd => exact hdir.decode rfl
  case ext a => exact hext.decode (congrArg (fun v => Except.ok (f (.ext v), rest)) (join_hi_lo a))
  case indX ff => exact hindX.decode rfl
  case indY ff => exact hindY.decode rfl

theorem decode_encode8 {op : Byte} {f : Src8 → Instr} (himm : (imm8 op f).StandsOn .page1)
    (hmem : MemRows .page1 .page1 .page2 (op + 0x10) fun m => f (.mem m)) {o : Src8} {rest : List Byte} :
    decode (encode8 op o ++ rest) = .ok (f o, rest) := by
  cases o with
  | imm ii => exact himm.decode rfl
  | mem m => exact decode_encodeMem _ _ _ hmem

theorem decode_encode16 (p px py : Page) {op : Byte} {f : Src16 → Instr} (himm : (imm16 op f).StandsOn p)
    (hmem : MemRows p px py (op + 0x10) fun m => f (.mem m)) {o : Src16} {rest : List Byte} :
    decode (encode16 (prebytes p) (prebytes px) (prebytes py) op o ++ rest) = .ok (f o, rest) := by
  cases o with
  | imm v =>
    rw [encode16, List.append_assoc]
    exact himm.decode (congrArg (fun v => Except.ok (f (.imm v), rest)) (join_hi_lo v))
  | mem m => exact decode_encodeMem _ _ _ hmem

theorem decode_encodeRmw {op : Byte} {f : Ea → Instr} (hindX : (indXM op f).StandsOn .page1)
    (hindY : (indYM op f).StandsOn .page2) (hext : (extM (op + 0x10) f).StandsOn .page1) {m : Ea} (hm : m.notDir = true)
    {rest : List Byte} : decode (encodeRmw op m ++ rest) = .ok (f m, rest) := by
  cases m with
  | dir dd => cases hm
  | ext a => exact hext.decode (congrArg (fun v => Except.ok (f (.ext v), rest)) (join_hi_lo a))
  | indX ff => exact hindX.decode rfl
  | indY ff => exact hindY.decode rfl

theorem decode_encodeBit_mask {d x mm : Byte} {f : Ea → Byte → Instr} (hdir : (dirMsk d f).StandsOn .page1)
    (hindX : (indXMsk x f).StandsOn .page1) (hindY : (indYMsk x f).StandsOn .page2) {m : Ea} (hm : m.notExt = true)
    {rest : List Byte} : decode (encodeBit d x [mm] m ++ rest) = .ok (f m mm, rest) := by
  cases m with
  | dir dd => exact hdir.decode rfl
  | ext a => cases hm
  | indX ff => exact hindX.decode rfl
  | indY ff => exact hindY.decode rfl

theorem decode_encodeBit_maskRel {d x mm rr : Byte} {f : Ea → Byte → Byte → Instr}
    (hdir : (dirMskRel d f).StandsOn .page1) (hindX : (indXMskRel x f).StandsOn .page1)
    (hindY : (indYMskRel x f).StandsOn .page2) {m : Ea} (hm : m.notExt = true) {rest : List Byte} :
    decode (encodeBit d x [mm, rr] m ++ rest) = .ok (f m mm rr, rest) := by
  cases m with
  | dir dd => exact hdir.decode rfl
  | ext a => cases hm
  | indX ff => exact hindX.decode rfl
  | indY ff => exact hindY.decode rfl

theorem decode_inh (p : Page) {op : Byte} {i : Instr} (h : (inh op i).StandsOn p) {rest : List Byte} :
    decode ((prebytes p ++ [op]) ++ rest) = .ok (i, rest) := by
  rw [List.append_assoc]
  exact h.decode rfl

theorem decode_rel {op rr : Byte} {f : Byte → Instr} (h : (rel op f).StandsOn .page1) {rest : List Byte} :
    decode ([op, rr] ++ rest) = .ok (f rr, rest) := h.decode rfl

/-- Settles O2: the encoder's forms are the rows of the maps, whatever the instruction. -/
theorem decodeInvertsEncode : Obligations.DecodeInvertsEncode := by
  unfold Obligations.DecodeInvertsEncode
  intro i rest hwf
  cases i
  case ldaa | ldab | adca | adcb | adda | addb | cmpa | cmpb | sbca | sbcb | suba | subb | anda | andb | bita | bitb | eora |
      eorb | oraa | orab =>
    refine decode_encode8 ?_ ?_
    · rfl
    · exact ⟨rfl, rfl, rfl, rfl⟩
  case ldd | lds | addd | subd =>
    refine decode_encode16 .page1 .page1 .page2 ?_ ?_
    · rfl
    · exact ⟨rfl, rfl, rfl, rfl⟩
  case ldx | cpx =>
    refine decode_encode16 .page1 .page1 .page4 ?_ ?_
    · rfl
    · exact ⟨rfl, rfl, rfl, rfl⟩
  case ldy | cpy =>
    refine decode_encode16 .page2 .page3 .page2 ?_ ?_
    · rfl
    · exact ⟨rfl, rfl, rfl, rfl⟩
  case cpd =>
    refine decode_encode16 .page3 .page3 .page4 ?_ ?_
    · rfl
    · exact ⟨rfl, rfl, rfl, rfl⟩
  case staa | stab | std | sts | jsr =>
    refine decode_encodeMem .page1 .page1 .page2 ?_
    exact ⟨rfl, rfl, rfl, rfl⟩
  case stx =>
    refine decode_encodeMem .page1 .page1 .page4 ?_
    exact ⟨rfl, rfl, rfl, rfl⟩
  case sty =>
    refine decode_encodeMem .page2 .page3 .page2 ?_
    exact ⟨rfl, rfl, rfl, rfl⟩
  case clr | dec | inc | neg | tst | asl | asr | com | lsr | rol | ror | jmp =>
    refine decode_encodeRmw ?_ ?_ ?_ hwf <;> rfl
  case bset | bclr =>
    refine decode_encodeBit_mask ?_ ?_ ?_ hwf <;> rfl
  case brset | brclr =>
    refine decode_encodeBit_maskRel ?_ ?_ ?_ hwf <;> rfl
  case bcc | bcs | beq | bge | bgt | bhi | ble | bls | blt | bmi | bne | bpl | bra | brn | bsr | bvc | bvs =>
    refine decode_rel ?_
    rfl
  case aby | dey | iny | pshy | puly | tsy | tys | xgdy =>
    refine decode_inh .page2 ?_
    rfl
  all_goals
    refine decode_inh .page1 ?_
    rfl

/-- Settles O1: each word is the encoding of its instruction. -/
theorem decodesWrittenWords : Obligations.DecodesWrittenWords := by
  unfold Obligations.DecodesWrittenWords
  exact ⟨decodeInvertsEncode (.ldaa (.mem (.indX 0x7F))) [] rfl, decodeInvertsEncode (.sty (.ext 0x1234)) [] rfl,
    decodeInvertsEncode (.ldy (.mem (.indX 0x05))) [] rfl, decodeInvertsEncode (.cpd (.mem (.indY 0x02))) [] rfl,
    decodeInvertsEncode (.addd (.imm 0x0102)) [] rfl, decodeInvertsEncode .idiv [] rfl,
    decodeInvertsEncode (.com (.ext 0x2040)) [] rfl, decodeInvertsEncode (.bclr (.dir 0x80) 0x0F) [] rfl,
    decodeInvertsEncode (.brset (.indY 0x04) 0x81 0xFC) [] rfl, decodeInvertsEncode (.bge 0xFE) [] rfl,
    decodeInvertsEncode (.jsr (.dir 0x10)) [0x77] rfl, decodeInvertsEncode .swi [] rfl⟩

end Sys2Proof
end

section
/-! PROOFS. Exception entry, and the illegal opcode exception of an undefined opcode (30_encoding.md, R186; 60_exceptions.md,
R434, R440 to R446). -/

namespace Sys2Proof.Machine

/-! Entry. -/

/-- The tail of the entry sequence loads PC from the vector, the mask bits set (R440, R446). -/
theorem enterVector_loadsVector (offset : Word) (setX : Bool) (t : State) :
    LoadsVector beat (t.withCpu (maskedCpu t.cpu setX)) (t.vectorBase + offset) (.next (enterVector offset setX t)) := by
  let m := t.withCpu (maskedCpu t.cpu setX)
  have hpair : enterVector offset setX t = (readPair beat m (t.vectorBase + offset)).2.withCpu
      { m.cpu with pc := (readPair beat m (t.vectorBase + offset)).1 } := by
    rw [← (readPair_core beat_core m (t.vectorBase + offset)).1]
    rfl
  refine ⟨congrArg _ hpair, fun hv hv' => ?_⟩
  rw [hpair, readPair_memory beat_core hv hv']
  rfl

/-- Where the vectors stand is the same after time and the outside world have moved. -/
theorem vectorBase_core {s t : State} (h : SameCore s t) : t.vectorBase = s.vectorBase := by
  obtain ⟨_, _, _, _, hhprio, _⟩ := h
  unfold State.vectorBase State.smod
  rw [hhprio]

theorem andThen_assoc (o : Result) (f g : State → Result) :
    andThen (andThen o f) g = andThen o fun t => andThen (f t) g := by
  cases o <;> rfl

/-- The common entry sequence is nine stores and, a beat later, the load of PC, wherever the stack lies (R440). -/
theorem takeException_entersFrom (rtn offset : Word) (setX : Bool) (s : State) :
    EntersFrom s rtn offset setX (takeException rtn offset setX s) := by
  have htake : takeException rtn offset setX s = andThen (writeAll (frameBytes s.cpu rtn) s) fun t =>
      .next (enterVector offset setX (beat (t.withCpu { s.cpu with sp := s.cpu.sp - 9 }))) := by
    unfold takeException
    rw [pushFrame_eq, andThen_assoc]
    simp only [andThen_next]
  refine ⟨fun haccepted => ?_, fun hrefused => ?_⟩
  · let t := storeAll s (frameBytes s.cpu rtn)
    have hbeat : beat (t.withCpu { s.cpu with sp := s.cpu.sp - 9 }) = (beat t).withCpu { s.cpu with sp := s.cpu.sp - 9 } :=
      beat_withCpu t (by rw [storeAll_cpu])
    refine ⟨t, stores_storeAll s (frameBytes s.cpu rtn), ?_⟩
    rw [htake, writeAll_accepted _ s haccepted, andThen_next, hbeat, ← vectorBase_core (beat_core t)]
    exact enterVector_loadsVector offset setX _
  · obtain ⟨r, hr⟩ := writeAll_not_accepted _ s hrefused
    exact ⟨r, by rw [htake, hr, andThen_refused]⟩

/-! An undefined opcode. -/

/-- The bytes of an opcode that its page has no row for: the opcode alone, or a prebyte and the second byte (R186). -/
def IsUndefined (bs : List Byte) (p : Page) (op : Byte) : Prop :=
  lookup p op = none ∧
    (bs = [op] ∧ p = .page1 ∧ pageOfPrebyte op = none ∨ ∃ b, bs = [b, op] ∧ pageOfPrebyte b = some p)

theorem decode_of_isUndefined {bs : List Byte} {p : Page} {op : Byte} (h : IsUndefined bs p op) :
    decode bs = .error (.undefinedOpcode p op) := by
  obtain ⟨hnone, ⟨rfl, rfl, hpage⟩ | ⟨b, rfl, hpage⟩⟩ := h
  · exact decode_eq_undefined_page1_iff.mpr ⟨hpage, hnone⟩
  · exact (decode_prebyte_eq_undefined_iff hpage).mpr hnone

/-- No operand byte is fetched after an undefined opcode (R186). -/
theorem fetchInstruction_isUndefined {s : State} {bs : List Byte} {p : Page} {op : Byte} (h : IsUndefined bs p op)
    (hcode : codeAt s s.cpu.pc bs = true) : fetchInstruction s = fetchBytes bs.length s := by
  have hbytes : (fetchBytes bs.length s).1 = bs := congrArg Prod.fst (fetchBytes_codeAt bs s hcode)
  obtain ⟨hnone, hword⟩ := h
  have hcount : operandCount p op = 0 := by simp only [operandCount, hnone]
  obtain ⟨rfl, rfl, hpage⟩ | ⟨b, rfl, hpage⟩ := hword
  · have h0 : (fetch8 s).1 = op := (List.cons.inj hbytes).1
    simp only [fetchInstruction, h0, hpage, hcount, List.length_cons, List.length_nil, fetchBytes]
  · have h0 : (fetch8 s).1 = b := (List.cons.inj hbytes).1
    have h1 : (fetch8 (fetch8 s).2).1 = op := (List.cons.inj (List.cons.inj hbytes).2).1
    simp only [fetchInstruction, h0, h1, hpage, hcount, List.length_cons, List.length_nil, fetchBytes]

theorem codeAt_setICleared {u : State} {bs : List Byte} (hcode : codeAt u u.cpu.pc bs = true) (v : Bool) :
    codeAt (u.setICleared v) (u.setICleared v).cpu.pc bs = true :=
  (codeAt_withCpu bs u _ _).trans hcode

/-- Fetching the bytes at PC leaves the state past them. -/
theorem fetchBytes_pastInstruction {u : State} {bs : List Byte} (hcode : codeAt u u.cpu.pc bs = true) :
    fetchBytes bs.length (u.setICleared false) = (bs, pastInstruction bs.length u) := by
  have hpc : u.cpu.pc = (pauses bs.length u).cpu.pc := by rw [(pauses_core bs.length u).1]
  rw [fetchBytes_codeAt bs _ (codeAt_setICleared hcode false), pauses_setICleared, State.setICleared_pc, hpc]
  rfl

/-- An undefined opcode traps with the address of its first byte (R186, R442). -/
theorem runInstruction_isUndefined {u : State} {bs : List Byte} {p : Page} {op : Byte} (h : IsUndefined bs p op)
    (hcode : codeAt u u.cpu.pc bs = true) (hdue : (pastInstruction bs.length u).resetDue = false) :
    runInstruction u = spend u.io.sys.cycles 14 (raiseIllegalOpcode u.cpu.pc (pastInstruction bs.length u)) := by
  have hfetch : fetchInstruction (u.setICleared false) = (bs, pastInstruction bs.length u) :=
    (fetchInstruction_isUndefined h (codeAt_setICleared hcode false)).trans (fetchBytes_pastInstruction hcode)
  simp only [runInstruction, hfetch, hdue, decode_of_isUndefined h, Bool.false_eq_true, if_false, entryCycles]

/-- Settles O6: the step fetches the undefined opcode alone, decodes it to no instruction and takes the exception. -/
theorem undefinedOpcodeTraps : Obligations.UndefinedOpcodeTraps := by
  unfold Obligations.UndefinedOpcodeTraps
  intro s bs p op u hruns hcode hnone hword past hdue
  exact ⟨_, takeException_entersFrom u.cpu.pc 0xF8 false past,
    (stepFrom_runsNext hruns).trans (runInstruction_isUndefined ⟨hnone, hword⟩ hcode hdue)⟩

end Sys2Proof.Machine
end

section
/-! PROOFS. Loads, stores, register transfers and the operations on one accumulator (40_load_store_transfer.md, R200 to R232;
41_arithmetic.md, R276 to R301; 42_logic_shift_bit.md, R336, R337). -/

namespace Sys2Proof.Machine

/-! Flags, in the forms the statements use. -/

theorem nzv0_eq (r : Byte) (c : Ccr) : nzv0 r c = logicFlags r c := rfl

theorem nzv0Word_eq (r : Word) (c : Ccr) : nzv0Word r c = logicFlagsWord r c := rfl

/-! Loads and stores. -/

section
variable (s : State)

/-- A load gives the register the operand, and the flags are those of it; `put` says where the register lies. -/
theorem load8_eq {set : State → Byte → State} (put : Cpu → Byte → Cpu) (o : Src8)
    (hset : ∀ t x, set t x = t.withCpu (put t.cpu x)) :
    let r := operand8 o s
    load8 set o s = .next (r.2.withCpu { put s.cpu r.1 with ccr := logicFlags r.1 s.cpu.ccr }) := by
  intro r
  have hcpu : r.2.cpu = s.cpu := operand8_cpu o s
  rw [← hcpu, ← nzv0_eq, load8, hset]
  rfl

theorem load16_eq {set : State → Word → State} (put : Cpu → Word → Cpu) (o : Src16)
    (hset : ∀ t x, set t x = t.withCpu (put t.cpu x)) :
    let r := operand16 o s
    load16 set o s = .next (r.2.withCpu { put s.cpu r.1 with ccr := logicFlagsWord r.1 s.cpu.ccr }) := by
  intro r
  have hcpu : r.2.cpu = s.cpu := operand16_cpu o s
  rw [← hcpu, ← nzv0Word_eq, load16, hset]
  rfl

/-- A byte is one store, and then the flags are those of it. -/
theorem store8_storesThen (v : Byte) (m : Ea) :
    StoresThen (store8 v m s) s [(effectiveAddress m s, v)] { s.cpu with ccr := logicFlags v s.cpu.ccr } :=
  storesThen_withCpu (fun c => { c with ccr := logicFlags v c.ccr }) rfl

/-- A 16-bit value is two stores, the high byte first, and then the flags are those of it (R130). -/
theorem store16_storesThen (v : Word) (m : Ea) :
    StoresThen (store16 v m s) s [(effectiveAddress m s, hi v), (effectiveAddress m s + 1, lo v)]
      { s.cpu with ccr := logicFlagsWord v s.cpu.ccr } :=
  storesThen_withCpu (fun c => { c with ccr := logicFlagsWord v c.ccr }) rfl

end

/-- Settles O28: each load is one read of its operand, which does not move the CPU, and then the register and the flags. -/
theorem loadsRegisters : Obligations.LoadsRegisters := by
  unfold Obligations.LoadsRegisters
  refine ⟨fun o s => ⟨_, _, reads8 o s, ?ldaa, ?ldab⟩, fun o s => ⟨_, _, reads16 o s, ?ldd, ?lds, ?ldx, ?ldy⟩⟩
  case ldaa => exact load8_eq s (fun c x => { c with a := x }) o fun _ _ => rfl
  case ldab => exact load8_eq s (fun c x => { c with b := x }) o fun _ _ => rfl
  case ldd => exact load16_eq s (fun c x => { c with a := hi x, b := lo x }) o fun _ _ => rfl
  case lds => exact load16_eq s (fun c x => { c with sp := x }) o fun _ _ => rfl
  case ldx => exact load16_eq s (fun c x => { c with ix := x }) o fun _ _ => rfl
  case ldy => exact load16_eq s (fun c x => { c with iy := x }) o fun _ _ => rfl

/-- Settles O29: each store is a list of one or two stores at the effective address, and then the flags. -/
theorem storesRegisters : Obligations.StoresRegisters := by
  unfold Obligations.StoresRegisters
  intro m s a word
  exact ⟨store8_storesThen s s.cpu.a m, store8_storesThen s s.cpu.b m, store16_storesThen s s.d m,
    store16_storesThen s s.cpu.sp m, store16_storesThen s s.cpu.ix m, store16_storesThen s s.cpu.iy m⟩

/-! One accumulator. -/

section
variable {s : State} {op : Byte → Ccr → Byte × Ccr} {r : Byte} {f : Ccr}

theorem unary_a (h : op s.cpu.a s.cpu.ccr = (r, f)) : unary .a op s = .next (s.withCpu { s.cpu with a := r, ccr := f }) := by
  rw [unary, State.acc_a, h]
  rfl

theorem unary_b (h : op s.cpu.b s.cpu.ccr = (r, f)) : unary .b op s = .next (s.withCpu { s.cpu with b := r, ccr := f }) := by
  rw [unary, State.acc_b, h]
  rfl

end

theorem inc8_eq (m : Byte) (c : Ccr) : inc8 m c = (m + 1, { logicFlags (m + 1) c with v := m == 0x7F }) := rfl

theorem dec8_eq (m : Byte) (c : Ccr) : dec8 m c = (m - 1, { logicFlags (m - 1) c with v := m == 0x80 }) := rfl

theorem testFlags_eq (m : Byte) (c : Ccr) : testFlags m c = { logicFlags m c with c := false } := rfl

/-- TST of memory reads the byte once and writes flags alone (R299). -/
theorem execTst_eq (m : Ea) (s : State) :
    let r := operand8 (.mem m) s
    execTst m s = .next (r.2.withCpu { s.cpu with ccr := { logicFlags r.1 s.cpu.ccr with c := false } }) := by
  intro r
  have hcpu : r.2.cpu = s.cpu := operand8_cpu (.mem m) s
  rw [← hcpu, ← testFlags_eq]
  rfl

/-- Settles O36: each accumulator form is its operation on that accumulator, and TST of memory is one read. -/
theorem unaryOperations : Obligations.UnaryOperations := by
  unfold Obligations.UnaryOperations
  intro s c inA inB clr tst inc dec neg com
  refine ⟨⟨?clra, ?clrb⟩, ⟨?tsta, ?tstb⟩, ⟨?inca, ?incb⟩, ⟨?deca, ?decb⟩, ⟨?nega, ?negb⟩, ⟨?coma, ?comb⟩, fun m => ?tst⟩
  case clra => exact unary_a (op := fun _ c => (0, clearFlags c)) rfl
  case clrb => exact unary_b (op := fun _ c => (0, clearFlags c)) rfl
  case tsta => exact congrArg (inA s.cpu.a) (testFlags_eq s.cpu.a c)
  case tstb => exact congrArg (inB s.cpu.b) (testFlags_eq s.cpu.b c)
  case inca => exact unary_a (inc8_eq s.cpu.a c)
  case incb => exact unary_b (inc8_eq s.cpu.b c)
  case deca => exact unary_a (dec8_eq s.cpu.a c)
  case decb => exact unary_b (dec8_eq s.cpu.b c)
  case nega => exact unary_a (neg8_eq s.cpu.a c)
  case negb => exact unary_b (neg8_eq s.cpu.b c)
  case coma => exact unary_a (com8_eq s.cpu.a c)
  case comb => exact unary_b (com8_eq s.cpu.b c)
  case tst => exact ⟨_, _, reads8 (.mem m) s, execTst_eq m s⟩

/-! Register transfers. -/

/-- An index register and a zero-extended byte, modulo 2^16 (R261, R262). -/
theorem add_zext16_eq (w : Word) (b : Byte) : w + zext16 b = BitVec.ofNat 16 (w.toNat + b.toNat) :=
  BitVec.eq_of_toNat_eq (by rw [add_zext16_toNat, BitVec.toNat_ofNat])

/-- The Z flag of a 16-bit value, by the number it stands for. -/
theorem decide_word_eq_zero (r : Word) : decide (r = 0) = decide (r.toNat = 0) :=
  decide_eq_decide.mpr BitVec.toNat_eq

/-- Settles O30: each meaning is an update of the CPU alone; Z and the sums are those of the numbers. -/
theorem registerTransfers : Obligations.RegisterTransfers := by
  unfold Obligations.RegisterTransfers
  intro s d withZ
  refine ⟨?tab, ?tba, ?tsx, ?tsy, ?txs, ?tys, ?xgdx, ?xgdy, ?abx, ?aby, ?inx, ?iny, ?dex, ?dey, ?ins, ?des⟩
  case tab | tba => simp only [exec, execTab, execTba, nzv0_eq]; rfl
  case tsx | tsy | txs | tys | xgdx | xgdy | ins | des => rfl
  case abx | aby => simp only [exec, execAbx, execAby, add_zext16_eq]; rfl
  case inx | iny | dex | dey => simp only [exec, execInx, execIny, execDex, execDey, decide_word_eq_zero]; rfl

end Sys2Proof.Machine
end

section
/-! PROOFS. Additions, subtractions and compares (41_arithmetic.md, R250 to R273, R293 to R298): the Boolean flags are the
arithmetic ones. -/

namespace Sys2Proof.Machine

/-! An accumulator and an operand. -/

theorem operand8_acc (o : Src8) (s : State) (r : Acc) : (operand8 o s).2.acc r = s.acc r := by
  cases r <;> simp only [State.acc_a, State.acc_b, operand8_cpu]

section
variable {s : State} {o : Src8} {r : Acc} {op : Byte → Byte → Ccr → Byte × Ccr} {v : Byte} {f : Ccr}

/-- The operand is read once, which leaves the CPU alone, and then the accumulator and the flags are written. -/
theorem accumulate_eq (h : op (s.acc r) (operand8 o s).1 s.cpu.ccr = (v, f)) :
    accumulate r op o s = .next ((operand8 o s).2.withCpu { (s.setAcc r v).cpu with ccr := f }) := by
  rw [accumulate, operand8_acc, operand8_cpu, h]
  cases r <;> simp only [State.setAcc, State.setA, State.setB, State.setCcr, State.withCpu, operand8_cpu]

theorem compare8_eq (h : op (s.acc r) (operand8 o s).1 s.cpu.ccr = (v, f)) :
    compare8 r op o s = .next ((operand8 o s).2.withCpu { s.cpu with ccr := f }) := by
  rw [compare8, operand8_acc, operand8_cpu, h, ← operand8_cpu o s]
  rfl

end

/-! 8-bit addition (R250). -/

theorem flagBit_zero_eq (b : Bool) : flagBit 0 b = (BitVec.ofBool b).setWidth 8 := by cases b <;> rfl

theorem flagBit_zero_toNat (b : Bool) : (flagBit 0 b).toNat = b.toNat := by cases b <;> rfl

theorem flagBit_zero_false : flagBit 0 false = 0#8 := rfl

/-- The Boolean carry out of bit `k` is that of the sum of the bits up to it. -/
theorem carryOut_add (x m : Byte) (cin : Bool) {k : Nat} (hk : k < 8) :
    carryOut x m (x + m + flagBit 0 cin) k = BitVec.carry (k + 1) x m cin := by
  have hsum : bit (x + m + flagBit 0 cin) k = (bit x k ^^ (bit m k ^^ BitVec.carry k x m cin)) := by
    rw [flagBit_zero_eq]
    exact BitVec.getLsbD_add_add_bool hk x m cin
  rw [BitVec.carry_succ, carryOut, hsum]
  show _ = Bool.atLeastTwo (bit x k) (bit m k) _
  generalize bit x k = a, bit m k = b, BitVec.carry k x m cin = c
  revert a b c
  decide

/-- C is the carry out of bit 7. -/
theorem carryOut_seven (x m : Byte) (cin : Bool) :
    carryOut x m (x + m + flagBit 0 cin) 7 = decide (255 < x.toNat + m.toNat + cin.toNat) := by
  rw [carryOut_add x m cin (by decide), BitVec.carry, Nat.mod_eq_of_lt x.isLt, Nat.mod_eq_of_lt m.isLt]
  rfl

/-- H is the carry out of bit 3. -/
theorem carryOut_three (x m : Byte) (cin : Bool) :
    carryOut x m (x + m + flagBit 0 cin) 3 = decide (15 < x.toNat % 16 + m.toNat % 16 + cin.toNat) :=
  carryOut_add x m cin (by decide)

/-- The two forms of the overflow of an addition, by the signs of `x`, `m` and the result. -/
theorem addOverflow_eq : ∀ x m r : Bool, ((x && m && !r) || (!x && !m && r)) = (x == m && r != x) := by decide

/-- The two forms of the overflow of a subtraction. -/
theorem subOverflow_eq : ∀ x m r : Bool, ((x && !m && !r) || (!x && m && r)) = (x != m && r != x) := by decide

theorem add8_eq (x m : Byte) (cin : Bool) (c : Ccr) :
    add8 x m cin c = (x + m + flagBit 0 cin, addFlags x m (x + m + flagBit 0 cin) c) := by
  have hr : BitVec.ofNat 8 (x.toNat + m.toNat + cin.toNat) = x + m + flagBit 0 cin := by
    rw [BitVec.ofNat_add, BitVec.ofNat_add, ← flagBit_zero_toNat]
    simp only [BitVec.ofNat_toNat, BitVec.setWidth_eq]
  simp only [add8, hr, addFlags, carryOut_seven, carryOut_three, addOverflow_eq]
  rfl

theorem addNoCarry_eq (x m : Byte) (c : Ccr) : addNoCarry x m c = (x + m, addFlags x m (x + m) c) := by
  have h := add8_eq x m false c
  rwa [flagBit_zero_false, BitVec.add_zero] at h

theorem addCarry_eq (x m : Byte) (c : Ccr) :
    addCarry x m c = (x + m + carryByte c, addFlags x m (x + m + carryByte c) c) := add8_eq x m c.c c

/-- Settles O32: each addition is `add8` of an accumulator and an operand read once, in its Boolean forms. -/
theorem adds8 : Obligations.Adds8 := by
  unfold Obligations.Adds8
  refine ⟨fun o s => ⟨_, _, reads8 o s, ?adda, ?addb, ?adca, ?adcb⟩, fun s => ?aba, fun x m c => ?flags⟩
  case adda => exact accumulate_eq (r := .a) (addNoCarry_eq _ _ _)
  case addb => exact accumulate_eq (r := .b) (addNoCarry_eq _ _ _)
  case adca => exact accumulate_eq (r := .a) (addCarry_eq _ _ _)
  case adcb => exact accumulate_eq (r := .b) (addCarry_eq _ _ _)
  case aba => exact unary_a (op := fun a c => addNoCarry a s.cpu.b c) (addNoCarry_eq _ _ _)
  case flags => exact ⟨carryOut_seven x m c.c, carryOut_three x m c.c, addOverflow_eq _ _ _⟩

/-! 8-bit subtraction (R251). -/

/-- The minuend is the sum of the subtrahend, the difference and the borrow in. -/
theorem add_sub_sub_eq_minuend (x m b : Byte) : m + (x - m - b) + b = x := by
  rw [BitVec.add_assoc, BitVec.sub_add_cancel, BitVec.add_comm, BitVec.sub_add_cancel]

/-- The Boolean borrow is the carry out of bit 7 of the sum that gives back the minuend. -/
theorem borrowOut_eq_carryOut (x m r : Byte) : borrowOut x m r = carryOut m r x 7 := by
  simp only [borrowOut, carryOut]
  generalize bit x 7 = a, bit m 7 = b, bit r 7 = c
  revert a b c
  decide

theorem borrowOut_sub (x m : Byte) (cin : Bool) :
    borrowOut x m (x - m - flagBit 0 cin) = decide (x.toNat < m.toNat + cin.toNat) := by
  have hcarry := carryOut_seven m (x - m - flagBit 0 cin) cin
  have hsum := congrArg BitVec.toNat (add_sub_sub_eq_minuend x m (flagBit 0 cin))
  rw [add_sub_sub_eq_minuend] at hcarry
  rw [borrowOut_eq_carryOut, hcarry, decide_eq_decide]
  rw [BitVec.toNat_add, BitVec.toNat_add, flagBit_zero_toNat] at hsum
  have hr := (x - m - flagBit 0 cin).isLt
  have hcin := cin.toNat_le
  omega

/-- Without a borrow in, the borrow is the unsigned relation. -/
theorem borrowOut_sub_noBorrow (x m : Byte) : borrowOut x m (x - m) = decide (x.toNat < m.toNat) := by
  have h := borrowOut_sub x m false
  rwa [flagBit_zero_false, BitVec.sub_zero] at h

theorem ofInt_sub (w : Nat) (x y : Int) : BitVec.ofInt w (x - y) = BitVec.ofInt w x - BitVec.ofInt w y := by
  rw [Int.sub_eq_add_neg, BitVec.ofInt_add, BitVec.ofInt_neg, ← BitVec.sub_eq_add_neg]

theorem sub8_eq (x m : Byte) (cin : Bool) (c : Ccr) :
    sub8 x m cin c = (x - m - flagBit 0 cin, subFlags x m (x - m - flagBit 0 cin) c) := by
  have hr : BitVec.ofInt 8 ((x.toNat : Int) - m.toNat - cin.toNat) = x - m - flagBit 0 cin := by
    rw [ofInt_sub, ofInt_sub, ← flagBit_zero_toNat]
    simp only [BitVec.ofInt_natCast, BitVec.ofNat_toNat, BitVec.setWidth_eq]
  have hc : decide ((x.toNat : Int) - m.toNat - cin.toNat < 0) = decide (x.toNat < m.toNat + cin.toNat) :=
    decide_eq_decide.mpr (by omega)
  simp only [sub8, hr, hc, subFlags, borrowOut_sub, subOverflow_eq]
  rfl

theorem subNoBorrow_eq (x m : Byte) (c : Ccr) : subNoBorrow x m c = (x - m, subFlags x m (x - m) c) := by
  have h := sub8_eq x m false c
  rwa [flagBit_zero_false, BitVec.sub_zero] at h

theorem subBorrow_eq (x m : Byte) (c : Ccr) :
    subBorrow x m c = (x - m - carryByte c, subFlags x m (x - m - carryByte c) c) := sub8_eq x m c.c c

/-- The compares write flags alone (R268 to R270). -/
theorem execCmpa_eq (o : Src8) (s : State) :
    let x := (operand8 o s).1
    execCmpa o s =
      .next ((operand8 o s).2.withCpu { s.cpu with ccr := subFlags s.cpu.a x (s.cpu.a - x) s.cpu.ccr }) :=
  compare8_eq (r := .a) (subNoBorrow_eq _ _ _)

theorem execCmpb_eq (o : Src8) (s : State) :
    let x := (operand8 o s).1
    execCmpb o s =
      .next ((operand8 o s).2.withCpu { s.cpu with ccr := subFlags s.cpu.b x (s.cpu.b - x) s.cpu.ccr }) :=
  compare8_eq (r := .b) (subNoBorrow_eq _ _ _)

theorem execCba_eq (s : State) :
    execCba s = .next (s.withCpu { s.cpu with ccr := subFlags s.cpu.a s.cpu.b (s.cpu.a - s.cpu.b) s.cpu.ccr }) := by
  rw [execCba, subNoBorrow_eq]
  rfl

/-- Settles O33: each subtraction is `sub8` of an accumulator and an operand read once, and a compare writes the flags alone. -/
theorem subtracts8 : Obligations.Subtracts8 := by
  unfold Obligations.Subtracts8
  refine ⟨fun o s => ⟨_, _, reads8 o s, ?suba, ?subb, ?sbca, ?sbcb, ?cmpa, ?cmpb⟩, fun s => ⟨?sba, ?cba⟩,
    fun x m c => ?flags⟩
  case suba => exact accumulate_eq (r := .a) (subNoBorrow_eq _ _ _)
  case subb => exact accumulate_eq (r := .b) (subNoBorrow_eq _ _ _)
  case sbca => exact accumulate_eq (r := .a) (subBorrow_eq _ _ _)
  case sbcb => exact accumulate_eq (r := .b) (subBorrow_eq _ _ _)
  case cmpa => exact execCmpa_eq o s
  case cmpb => exact execCmpb_eq o s
  case sba => exact unary_a (op := fun a c => subNoBorrow a s.cpu.b c) (subNoBorrow_eq _ _ _)
  case cba => exact execCba_eq s
  case flags => exact ⟨borrowOut_sub x m c.c, subOverflow_eq _ _ _⟩

/-! 16-bit arithmetic (R252, R253). -/

theorem add16_eq (x m : Word) (c : Ccr) : add16 x m c = (x + m, addFlagsWord x m c) := by
  have hr : BitVec.ofNat 16 (x.toNat + m.toNat) = x + m := by
    rw [BitVec.ofNat_add]
    simp only [BitVec.ofNat_toNat, BitVec.setWidth_eq]
  simp only [add16, hr, addFlagsWord]
  rfl

theorem sub16_eq (x m : Word) (c : Ccr) : sub16 x m c = (x - m, subFlagsWord x m c) := by
  have hr : BitVec.ofInt 16 ((x.toNat : Int) - m.toNat) = x - m := by
    rw [ofInt_sub]
    simp only [BitVec.ofInt_natCast, BitVec.ofNat_toNat, BitVec.setWidth_eq]
  have hc : decide ((x.toNat : Int) - m.toNat < 0) = decide (x.toNat < m.toNat) := decide_eq_decide.mpr (by omega)
  simp only [sub16, hr, hc, subFlagsWord]
  rfl

section
variable (o : Src16) (s : State)

theorem operand16_d : (operand16 o s).2.d = s.d := by simp only [State.d, operand16_cpu]

theorem accumulateD_eq {op : Word → Word → Ccr → Word × Ccr} {r : Word} {f : Ccr}
    (h : op s.d (operand16 o s).1 s.cpu.ccr = (r, f)) :
    accumulateD op o s = .next ((operand16 o s).2.withCpu { s.cpu with a := hi r, b := lo r, ccr := f }) := by
  rw [accumulateD, operand16_d, operand16_cpu, h, ← operand16_cpu o s]
  rfl

/-- A 16-bit compare takes its register as it was before the operand was read, and writes flags alone. -/
theorem compare16_eq {reg : State → Word} (hreg : reg (operand16 o s).2 = reg s) :
    compare16 reg o s =
      .next ((operand16 o s).2.withCpu { s.cpu with ccr := subFlagsWord (reg s) (operand16 o s).1 s.cpu.ccr }) := by
  rw [compare16, hreg, sub16_eq, operand16_cpu, ← operand16_cpu o s]
  rfl

theorem execCpd_eq :
    execCpd o s = .next ((operand16 o s).2.withCpu { s.cpu with ccr := subFlagsWord s.d (operand16 o s).1 s.cpu.ccr }) :=
  compare16_eq o s (operand16_d o s)

theorem execCpx_eq :
    execCpx o s =
      .next ((operand16 o s).2.withCpu { s.cpu with ccr := subFlagsWord s.cpu.ix (operand16 o s).1 s.cpu.ccr }) :=
  compare16_eq o s (reg := fun t => t.cpu.ix) (congrArg Cpu.ix (operand16_cpu o s))

theorem execCpy_eq :
    execCpy o s =
      .next ((operand16 o s).2.withCpu { s.cpu with ccr := subFlagsWord s.cpu.iy (operand16 o s).1 s.cpu.ccr }) :=
  compare16_eq o s (reg := fun t => t.cpu.iy) (congrArg Cpu.iy (operand16_cpu o s))

end

/-- Settles O34: D with an operand read once, or a register compared with it. -/
theorem arithmetic16 : Obligations.Arithmetic16 := by
  unfold Obligations.Arithmetic16
  refine fun o s => ⟨_, _, reads16 o s, ?addd, ?subd, execCpd_eq o s, execCpx_eq o s, execCpy_eq o s⟩
  case addd => exact accumulateD_eq o s (add16_eq _ _ _)
  case subd => exact accumulateD_eq o s (sub16_eq _ _ _)

end Sys2Proof.Machine
end

section
/-! PROOFS. The branches after a compare (41_arithmetic.md, R254; 43_branch_jump.md, R396). -/

namespace Sys2Proof.Machine

/-- The flags `f` say how `x` and `m` relate, unsigned by C, signed by N and V (R254). -/
def RelatesFlags {w : Nat} (x m : BitVec w) (f : Ccr) : Prop :=
  f.c = decide (x < m) ∧ f.z = decide (x = m) ∧ (f.n ^^ f.v) = decide (x.toInt < m.toInt)

/-! The flags of a compare. -/

/-- N exclusive-or V of a difference is the signed relation: where the difference overflows, the signs differ and the sign
of the result is the wrong one. -/
theorem msb_sub_xor_overflow {w : Nat} (x m : BitVec w) :
    ((x - m).msb ^^ (x.msb != m.msb && (x - m).msb != x.msb)) = decide (x.toInt < m.toInt) := by
  have hoverflow : BitVec.ssubOverflow x m = (x.msb != m.msb && (x - m).msb != x.msb) := by
    rw [BitVec.ssubOverflow_eq, ← subOverflow_eq, Bool.or_comm]
  rw [← hoverflow]
  cases hv : BitVec.ssubOverflow x m with
  | false =>
    rw [Bool.xor_false, BitVec.msb_eq_toInt, BitVec.toInt_sub_of_not_ssubOverflow (by rw [hv]; decide), decide_eq_decide]
    omega
  | true =>
    rw [hv, Eq.comm, Bool.and_eq_true, bne_iff_ne, bne_iff_ne] at hoverflow
    obtain ⟨hsigns, hresult⟩ := hoverflow
    rw [Bool.xor_true, Bool.not_eq.mpr hresult, BitVec.msb_eq_toInt]
    rw [BitVec.msb_eq_toInt, BitVec.msb_eq_toInt, ne_eq, decide_eq_decide] at hsigns
    rw [decide_eq_decide]
    omega

theorem decide_sub_eq_zero {w : Nat} (x m : BitVec w) : (x - m == 0) = decide (x = m) := by
  have h : x - m = 0#w ↔ x = m := by rw [BitVec.sub_eq_iff_eq_add, BitVec.zero_add]
  exact decide_eq_decide.mpr h

theorem subFlags_relates (x m : Byte) (c : Ccr) : RelatesFlags x m (subFlags x m (x - m) c) := by
  refine ⟨borrowOut_sub_noBorrow x m, decide_sub_eq_zero x m, ?_⟩
  rw [← msb_sub_xor_overflow x m, ← subOverflow_eq]
  rfl

theorem subFlagsWord_relates (x m : Word) (c : Ccr) : RelatesFlags x m (subFlagsWord x m c) :=
  ⟨rfl, decide_sub_eq_zero x m, msb_sub_xor_overflow x m⟩

/-! The branches. -/

theorem branchesWhere_of_branch {i : Byte → Instr} {taken taken' : Bool} {t : State}
    (hexec : ∀ rr, exec (i rr) t = branch taken rr t) (h : taken = taken') : BranchesWhere i taken' t := by
  subst h
  intro rr
  rw [hexec]
  cases taken <;> rfl

/-- Where the flags say how `x` and `m` relate, each branch is taken where its relation holds (R396). -/
theorem branchesCompare_of_relates {w : Nat} {x m : BitVec w} {t : State} (h : RelatesFlags x m t.cpu.ccr) :
    BranchesCompare x m t := by
  obtain ⟨hc, hz, hnv⟩ := h
  have hne : (t.cpu.ccr.n != t.cpu.ccr.v) = decide (x.toInt < m.toInt) := hnv
  have hsigned : x = m ↔ x.toInt = m.toInt := BitVec.toInt_inj.symm
  have hle : (t.cpu.ccr.c || t.cpu.ccr.z) = decide (x ≤ m) := by
    rw [hc, hz, ← Bool.decide_or, decide_eq_decide, BitVec.lt_def, BitVec.le_def, BitVec.toNat_eq]
    omega
  have hsle : (t.cpu.ccr.z || t.cpu.ccr.n != t.cpu.ccr.v) = decide (x.toInt ≤ m.toInt) := by
    rw [hz, hne, ← Bool.decide_or, decide_eq_decide, hsigned]
    omega
  refine ⟨hc, hz, hnv, ?bhi, ?bcc, ?beq, ?bls, ?bcs, ?bne, ?bgt, ?bge, ?ble, ?blt⟩
  case bhi =>
    refine branchesWhere_of_branch (fun _ => rfl) ?_
    rw [hle, ← decide_not, decide_eq_decide, BitVec.not_le]
  case bcc =>
    refine branchesWhere_of_branch (fun _ => rfl) ?_
    rw [hc, ← decide_not, decide_eq_decide, BitVec.not_lt]
  case beq => exact branchesWhere_of_branch (fun _ => rfl) hz
  case bls => exact branchesWhere_of_branch (fun _ => rfl) hle
  case bcs => exact branchesWhere_of_branch (fun _ => rfl) hc
  case bne =>
    refine branchesWhere_of_branch (fun _ => rfl) ?_
    rw [hz, decide_not]
  case bgt =>
    refine branchesWhere_of_branch (fun _ => rfl) ?_
    rw [hsle, ← decide_not, decide_eq_decide, Int.not_le]
  case bge =>
    refine branchesWhere_of_branch (taken := !(t.cpu.ccr.n != t.cpu.ccr.v)) (fun _ => ?_) ?_
    · rw [bne, Bool.not_not]
      rfl
    · rw [hne, ← decide_not, decide_eq_decide, Int.not_lt]
  case ble => exact branchesWhere_of_branch (fun _ => rfl) hsle
  case blt => exact branchesWhere_of_branch (fun _ => rfl) hnv

/-- Settles O35: every compare leaves flags that say how its operands relate, and the branches go by those. -/
theorem compareThenBranch : Obligations.CompareThenBranch := by
  unfold Obligations.CompareThenBranch
  refine ⟨fun o s => ⟨_, _, reads8 o s, ⟨_, execCmpa_eq o s, ?cmpa⟩, ⟨_, execCmpb_eq o s, ?cmpb⟩⟩,
    fun s => ⟨_, execCba_eq s, ?cba⟩,
    fun o s => ⟨_, _, reads16 o s, ⟨_, execCpd_eq o s, ?cpd⟩, ⟨_, execCpx_eq o s, ?cpx⟩,
      ⟨_, execCpy_eq o s, ?cpy⟩⟩⟩
  case cmpa | cmpb | cba => exact branchesCompare_of_relates (subFlags_relates _ _ _)
  case cpd | cpx | cpy => exact branchesCompare_of_relates (subFlagsWord_relates _ _ _)

end Sys2Proof.Machine
end

section
/-! PROOFS. Multiplication and division (41_arithmetic.md, R281, R282, R289). -/

namespace Sys2Proof.Machine

/-! The halves of a number as a word. -/

theorem hi_ofNat (n : Nat) : hi (BitVec.ofNat 16 n) = BitVec.ofNat 8 (n / 256) := by
  apply BitVec.eq_of_toNat_eq
  rw [hi_toNat, BitVec.toNat_ofNat, BitVec.toNat_ofNat]
  omega

theorem lo_ofNat (n : Nat) : lo (BitVec.ofNat 16 n) = BitVec.ofNat 8 (n % 256) := by
  apply BitVec.eq_of_toNat_eq
  rw [lo_toNat, BitVec.toNat_ofNat, BitVec.toNat_ofNat]
  omega

/-- A number below 2^16 is 0 where its word is. -/
theorem decide_ofNat_eq_zero {q : Nat} (hq : q < 65536) : decide (BitVec.ofNat 16 q = 0) = (q == 0) := by
  rw [decide_word_eq_zero, BitVec.toNat_ofNat, Nat.mod_eq_of_lt hq]
  rfl

theorem getLsbD_seven_ofNat (n : Nat) : (BitVec.ofNat 16 n).getLsbD 7 = (n / 128 % 2 == 1) := by
  rw [BitVec.getLsbD_ofNat, Nat.testBit_eq_decide_div_mod_eq]
  rfl

/-! The instructions. -/

theorem execMul_eq (s : State) :
    let p := s.cpu.a.toNat * s.cpu.b.toNat
    execMul s = .next (s.withCpu { s.cpu with
      a := BitVec.ofNat 8 (p / 256)
      b := BitVec.ofNat 8 (p % 256)
      ccr := { s.cpu.ccr with c := p / 128 % 2 == 1 } }) := by
  intro p
  rw [← hi_ofNat, ← lo_ofNat, ← getLsbD_seven_ofNat]
  rfl

/-- A division whose quotient fits IX, in the numbers. -/
theorem quotient_eq {n d : Nat} (hq : n / d < 65536) (s : State) :
    quotient n d s = s.withCpu { s.cpu with
      a := BitVec.ofNat 8 (n % d / 256)
      b := BitVec.ofNat 8 (n % d % 256)
      ix := BitVec.ofNat 16 (n / d)
      ccr := { s.cpu.ccr with z := n / d == 0, v := false, c := false } } := by
  rw [← hi_ofNat, ← lo_ofNat, ← decide_ofNat_eq_zero hq]
  rfl

/-- The quotient of a word fits IX (R282). -/
theorem idiv_quotient_lt (d : Word) (x : Nat) : d.toNat / x < 65536 :=
  Nat.lt_of_le_of_lt (Nat.div_le_self _ _) d.isLt

/-- A fraction of less than 1 fits IX (R281). -/
theorem fdiv_quotient_lt {d x : Nat} (h : d < x) : d * 65536 / x < 65536 :=
  (Nat.div_lt_iff_lt_mul (by omega)).mpr (by omega)

theorem execIdiv_of_ne {s : State} (h : s.cpu.ix ≠ 0) : execIdiv s = .next (quotient s.d.toNat s.cpu.ix.toNat s) :=
  congrArg Host.Outcome.next (if_neg h)

theorem execFdiv_of_lt {s : State} (h : s.d.toNat < s.cpu.ix.toNat) :
    execFdiv s = .next (quotient (s.d.toNat * 65536) s.cpu.ix.toNat s) := by
  have hx : s.cpu.ix ≠ 0 := fun hzero => Nat.not_lt_zero _ (hzero ▸ h)
  rw [execFdiv, if_neg hx, if_neg (Nat.not_le.mpr h)]

theorem execFdiv_of_le {s : State} (hx : s.cpu.ix ≠ 0) (h : s.cpu.ix.toNat ≤ s.d.toNat) :
    execFdiv s = .next (noQuotient true false s) := by
  rw [execFdiv, if_neg hx, if_pos h]

/-- Settles O37: the product and the quotients in numbers, and no quotient where IX is 0 or the fraction is not below 1. -/
theorem multiplyAndDivide : Obligations.MultiplyAndDivide := by
  unfold Obligations.MultiplyAndDivide
  intro s d p done none
  refine ⟨execMul_eq s, fun hx => ?idiv, fun hx => ?idivByZero, fun hlt => ?fdiv, fun hx hle => ?overflow,
    fun hx => ?fdivByZero⟩
  case idiv => exact (execIdiv_of_ne hx).trans (congrArg _ (quotient_eq (idiv_quotient_lt d _) s))
  case fdiv => exact (execFdiv_of_lt hlt).trans (congrArg _ (quotient_eq (fdiv_quotient_lt hlt) s))
  case overflow => exact ⟨_, _, execFdiv_of_le hx hle⟩
  case idivByZero | fdivByZero => exact ⟨_, _, congrArg Host.Outcome.next (if_pos hx)⟩

end Sys2Proof.Machine
end

section
/-! PROOFS. Decimal adjustment (41_arithmetic.md, R274): after the sum of two packed-BCD bytes, A is `16 * h + l` modulo 256,
`h` and `l` the sums of the digits, and the correction carries each digit above 9 over. -/

namespace Sys2Proof.Machine

/-- What is added to A for the digit sums `h` and `l`: 6 to each digit that carries over. -/
def decimalCorrection (h l : Nat) : Byte :=
  BitVec.ofNat 8 ((if 10 ≤ l then 0x06 else 0x00) + if 100 ≤ 10 * h + l then 0x60 else 0x00)

/-- The table of R274 holds the correction of every pair of digit sums of two BCD bytes and a carry. -/
theorem daaCorrection_digitSums : ∀ h < 19, ∀ l < 20,
    daaCorrection (decide (255 < 16 * h + l)) (decide (15 < l)) ((16 * h + l) % 256 / 16) ((16 * h + l) % 256 % 16) =
      some (decimalCorrection h l, decide (100 ≤ 10 * h + l)) := by
  decide

/-- The corrected byte holds the last two decimal digits of the sum. -/
theorem add_decimalCorrection_toNat {h l : Nat} (hh : h < 19) (hl : l < 20) :
    (BitVec.ofNat 8 (16 * h + l) + decimalCorrection h l).toNat = (h + l / 10) % 10 * 16 + l % 10 := by
  rw [decimalCorrection, BitVec.toNat_add, BitVec.toNat_ofNat, BitVec.toNat_ofNat, ← Nat.add_mod]
  split <;> split <;> omega

theorem isBcd_iff (b : Byte) : isBcd b = true ↔ b.toNat / 16 ≤ 9 ∧ b.toNat % 16 ≤ 9 := by
  simp only [isBcd, Bool.and_eq_true, decide_eq_true_eq]

theorem isBcd_of_digits {b : Byte} {tens ones : Nat} (h : b.toNat = tens % 10 * 16 + ones % 10) : isBcd b = true := by
  rw [isBcd_iff, h]
  omega

theorem bcdValue_of_digits {b : Byte} {tens ones : Nat} (h : b.toNat = tens % 10 * 16 + ones % 10) :
    bcdValue b = tens % 10 * 10 + ones % 10 := by
  rw [bcdValue, h]
  omega

/-! The instruction. -/

/-- DAA in a row of its table: A is corrected, V is a free value. -/
theorem execDaa_of_correction {s : State} {add : Byte} {carry : Bool}
    (h : daaCorrection s.cpu.ccr.c s.cpu.ccr.h (s.cpu.a.toNat / 16) (s.cpu.a.toNat % 16) = some (add, carry)) :
    let r := s.cpu.a + add
    execDaa s = .next ((s.withCpu { s.cpu with
      a := r
      ccr := { s.cpu.ccr with n := bit r 7, z := r == 0, v := Config.freeBit s.draws, c := carry } }).drawn 1) := by
  rw [execDaa]
  simp only [h]
  rfl

/-- DAA outside its table: A and the four flags are free values. -/
theorem execDaa_of_noCorrection {s : State}
    (h : daaCorrection s.cpu.ccr.c s.cpu.ccr.h (s.cpu.a.toNat / 16) (s.cpu.a.toNat % 16) = none) :
    execDaa s = .next ((s.withCpu { s.cpu with
      a := Config.freeByte s.draws
      ccr := { s.cpu.ccr with
        n := Config.freeBit s.draws
        z := Config.freeBit (s.draws + 1)
        v := Config.freeBit (s.draws + 2)
        c := Config.freeBit (s.draws + 3) } }).drawn 4) := by
  rw [execDaa]
  simp only [h]
  rfl

/-- In no state does DAA change anything but A, N, Z, V and C. -/
theorem execDaa_frame (s : State) : ∃ a n z v c k, execDaa s = .next ((s.withCpu { s.cpu with
    a := a, ccr := { s.cpu.ccr with n := n, z := z, v := v, c := c } }).drawn k) := by
  cases h : daaCorrection s.cpu.ccr.c s.cpu.ccr.h (s.cpu.a.toNat / 16) (s.cpu.a.toNat % 16) with
  | none => exact ⟨_, _, _, _, _, _, execDaa_of_noCorrection h⟩
  | some p => exact ⟨_, _, _, _, _, _, execDaa_of_correction h⟩

/-- After the sum of two BCD bytes DAA corrects A by the digit sums, and C is the decimal carry. -/
theorem execDaa_of_digitSums {s : State} {h l : Nat} (hh : h < 19) (hl : l < 20)
    (ha : s.cpu.a = BitVec.ofNat 8 (16 * h + l)) (hc : s.cpu.ccr.c = decide (255 < 16 * h + l))
    (hhalf : s.cpu.ccr.h = decide (15 < l)) :
    let r := s.cpu.a + decimalCorrection h l
    execDaa s = .next ((s.withCpu { s.cpu with
      a := r
      ccr := { s.cpu.ccr with
        n := bit r 7, z := r == 0, v := Config.freeBit s.draws, c := decide (100 ≤ 10 * h + l) } }).drawn 1) := by
  apply execDaa_of_correction
  rw [hc, hhalf, ha, BitVec.toNat_ofNat]
  exact daaCorrection_digitSums h hh l hl

/-- ADCA with an immediate operand (R263). -/
theorem execAdca_imm (y : Byte) (s : State) :
    let r := s.cpu.a + y + carryByte s.cpu.ccr
    execAdca (.imm y) s = .next (s.withCpu { s.cpu with a := r, ccr := addFlags s.cpu.a y r s.cpu.ccr }) :=
  accumulate_eq (r := .a) (o := .imm y) (addCarry_eq _ _ _)

/-- The binary sum of two bytes and a carry, by the sums of their digits. -/
theorem add_add_carryByte_eq (x y : Byte) (c : Ccr) :
    x + y + carryByte c =
      BitVec.ofNat 8 (16 * (x.toNat / 16 + y.toNat / 16) + (x.toNat % 16 + y.toNat % 16 + c.c.toNat)) := by
  apply BitVec.eq_of_toNat_eq
  rw [BitVec.toNat_add, BitVec.toNat_add, carryByte, flagBit_zero_toNat, BitVec.toNat_ofNat]
  omega

/-- Settles O38: the addition leaves the sums of the digits in A, C and H, and the table of DAA corrects them. -/
theorem decimalAdjust : Obligations.DecimalAdjust := by
  unfold Obligations.DecimalAdjust
  refine ⟨fun x y s hx hy => ?_, execDaa_frame⟩
  intro sum
  obtain ⟨hxHigh, hxLow⟩ := (isBcd_iff x).mp hx
  obtain ⟨hyHigh, hyLow⟩ := (isBcd_iff y).mp hy
  have hcarry := s.cpu.ccr.c.toNat_le
  let h := x.toNat / 16 + y.toNat / 16
  let l := x.toNat % 16 + y.toNat % 16 + s.cpu.ccr.c.toNat
  have hh : h < 19 := by omega
  have hl : l < 20 := by omega
  have hsum : 10 * h + l = sum := by simp only [sum, bcdValue]; omega
  let r := x + y + carryByte s.cpu.ccr
  have hr : r = BitVec.ofNat 8 (16 * h + l) := add_add_carryByte_eq x y s.cpu.ccr
  have hc : carryOut x y r 7 = decide (255 < 16 * h + l) :=
    (carryOut_seven x y s.cpu.ccr.c).trans (decide_eq_decide.mpr (by omega))
  have hhalf : carryOut x y r 3 = decide (15 < l) := carryOut_three x y s.cpu.ccr.c
  have hdaa := execDaa_of_digitSums (s := s.withCpu { s.cpu with a := r, ccr := addFlags x y r s.cpu.ccr }) hh hl hr hc hhalf
  have hdigits := add_decimalCorrection_toNat hh hl
  rw [← hr] at hdigits
  rw [hsum] at hdaa
  refine ⟨_, _, _, execAdca_imm y _, hdaa, isBcd_of_digits hdigits, (bcdValue_of_digits hdigits).trans ?_, rfl⟩
  omega

end Sys2Proof.Machine
end

section
/-! PROOFS. Logic, shifts and rotates of the accumulators (42_logic_shift_bit.md, R320 to R355). -/

namespace Sys2Proof.Machine

/-! Logic (R320). -/

theorem logical_eq (f : Byte → Byte → Byte) (x m : Byte) (c : Ccr) : logical f x m c = (f x m, logicFlags (f x m) c) := rfl

/-- Settles O39: each is one logical operation of an accumulator and an operand read once, and BIT writes the flags alone. -/
theorem logicOnAccumulators : Obligations.LogicOnAccumulators := by
  unfold Obligations.LogicOnAccumulators
  refine fun o s => ⟨_, _, reads8 o s, ?anda, ?andb, ?oraa, ?orab, ?eora, ?eorb, ?bita, ?bitb⟩
  case anda | oraa | eora => exact accumulate_eq (r := .a) (logical_eq _ _ _ _)
  case andb | orab | eorb => exact accumulate_eq (r := .b) (logical_eq _ _ _ _)
  case bita => exact compare8_eq (r := .a) (logical_eq _ _ _ _)
  case bitb => exact compare8_eq (r := .b) (logical_eq _ _ _ _)

/-! One place to the left or to the right: the bit that leaves, and the result with the bit that enters. -/

theorem flagBit_seven_toNat (b : Bool) : (flagBit 7 b).toNat = b.toNat * 128 := by cases b <;> rfl

/-- Bit 7 leaves a byte to the left. -/
theorem bit_seven_eq (m : Byte) : bit m 7 = (m.toNat / 128 == 1) := by
  have hm := m.isLt
  rw [bit, BitVec.getLsbD, Nat.testBit_eq_decide_div_mod_eq]
  exact decide_eq_decide.mpr (by omega)

theorem bit_seven_toNat (m : Byte) : (bit m 7).toNat = m.toNat / 128 := by
  have hm := m.isLt
  exact (Nat.toNat_testBit m.toNat 7).trans (by omega)

/-- Bit 0 leaves a byte to the right. -/
theorem bit_zero_eq (m : Byte) : bit m 0 = (m.toNat % 2 == 1) := Nat.testBit_zero m.toNat

/-- The bit that enters on the right is added to twice the byte. -/
theorem shiftLeft_one_or_flagBit (m : Byte) (cin : Bool) :
    m <<< 1 ||| flagBit 0 cin = BitVec.ofNat 8 (m.toNat * 2 % 256 + cin.toNat) := by
  have hcin : cin.toNat < 2 ^ 1 := Nat.lt_succ_of_le cin.toNat_le
  have hdouble : (m <<< 1).toNat = 2 ^ 1 * (m.toNat % 128) := by
    rw [BitVec.toNat_shiftLeft, Nat.shiftLeft_eq]
    omega
  apply BitVec.eq_of_toNat_eq
  rw [BitVec.toNat_or, hdouble, flagBit_zero_toNat, ← Nat.two_pow_add_eq_or_of_lt hcin, BitVec.toNat_ofNat]
  omega

/-- The bit that enters on the left is worth 128. -/
theorem shiftRight_one_or_flagBit (m : Byte) (cin : Bool) :
    m >>> 1 ||| flagBit 7 cin = BitVec.ofNat 8 (m.toNat / 2 + cin.toNat * 128) := by
  have hm := m.isLt
  have hcin := cin.toNat_le
  have hhalf : (m >>> 1).toNat = m.toNat / 2 := by rw [BitVec.toNat_ushiftRight, Nat.shiftRight_eq_div_pow, Nat.pow_one]
  have hlt : m.toNat / 2 < 2 ^ 7 := by omega
  apply BitVec.eq_of_toNat_eq
  rw [BitVec.toNat_or, hhalf, flagBit_seven_toNat, Nat.or_comm, Nat.mul_comm, ← Nat.two_pow_add_eq_or_of_lt hlt,
    BitVec.toNat_ofNat]
  omega

/-! The operations in numbers. -/

/-- A shift with the result `n` and the bit `out` that leaves, both as numbers. -/
def shiftedNumber (n out : Nat) (c : Ccr) : Byte × Ccr :=
  (BitVec.ofNat 8 n, rotateFlags (BitVec.ofNat 8 n) (out == 1) c)

theorem rol8_eq (m : Byte) (c : Ccr) : rol8 m c = shiftedNumber (m.toNat * 2 % 256 + c.c.toNat) (m.toNat / 128) c := by
  rw [rol8, shiftLeft_one_or_flagBit, bit_seven_eq]
  rfl

theorem ror8_eq (m : Byte) (c : Ccr) : ror8 m c = shiftedNumber (m.toNat / 2 + c.c.toNat * 128) (m.toNat % 2) c := by
  rw [ror8, shiftRight_one_or_flagBit, bit_zero_eq]
  rfl

/-- ASL is the shift to the left with a 0 entering. -/
theorem asl8_eq (m : Byte) (c : Ccr) : asl8 m c = shiftedNumber (m.toNat * 2 % 256) (m.toNat / 128) c := by
  have h := shiftLeft_one_or_flagBit m false
  rw [flagBit_zero_false, BitVec.or_zero] at h
  rw [asl8, h, bit_seven_eq]
  rfl

/-- LSR is the shift to the right with a 0 entering. -/
theorem lsr8_eq (m : Byte) (c : Ccr) : lsr8 m c = shiftedNumber (m.toNat / 2) (m.toNat % 2) c := by
  have h : m >>> 1 ||| 0#8 = _ := shiftRight_one_or_flagBit m false
  rw [BitVec.or_zero, Bool.toNat_false, Nat.zero_mul, Nat.add_zero] at h
  rw [lsr8, h, bit_zero_eq]
  rfl

/-- ASR is the shift to the right with the old bit 7 entering. -/
theorem asr8_eq (m : Byte) (c : Ccr) :
    asr8 m c = shiftedNumber (m.toNat / 2 + m.toNat / 128 * 128) (m.toNat % 2) c := by
  have hsign : m &&& 0x80 = flagBit 7 (bit m 7) := BitVec.and_twoPow m 7
  rw [asr8, hsign, shiftRight_one_or_flagBit, bit_seven_toNat, bit_zero_eq]
  rfl

/-! D. -/

/-- Bit 15 leaves a word to the left. -/
theorem getLsbD_fifteen_eq (r : Word) : r.getLsbD 15 = decide (32768 ≤ r.toNat) :=
  (BitVec.msb_eq_getLsbD_last r).symm.trans (BitVec.msb_eq_decide r)

/-- Bit 0 leaves a word to the right. -/
theorem getLsbD_zero_eq (r : Word) : r.getLsbD 0 = (r.toNat % 2 == 1) := Nat.testBit_zero r.toNat

/-- D shifted to the number `n`, with the bit `out` that left in C (R321). -/
def State.shiftedD (s : State) (n : Nat) (out : Bool) : State :=
  s.withCpu { s.cpu with
    a := BitVec.ofNat 8 (n / 256)
    b := BitVec.ofNat 8 (n % 256)
    ccr := { s.cpu.ccr with n := decide (32768 ≤ n), z := n == 0, v := decide (32768 ≤ n) ^^ out, c := out } }

/-- What the model writes to D and to the flags for a shift with the result `r`. -/
theorem setD_shiftFlagsWord (s : State) (r : Word) (out : Bool) :
    (s.setD r).setCcr (shiftFlagsWord r out s.cpu.ccr) = s.shiftedD r.toNat out := by
  have hz : (r.toNat == 0) = decide (r = 0) := (decide_word_eq_zero r).symm
  rw [State.shiftedD, ← hi_ofNat, ← lo_ofNat, BitVec.ofNat_toNat, BitVec.setWidth_eq, hz, ← getLsbD_fifteen_eq]
  rfl

theorem d_toNat (s : State) : s.d.toNat = s.cpu.a.toNat * 256 + s.cpu.b.toNat := join_toNat s.cpu.a s.cpu.b

theorem execAsld_eq (s : State) :
    let d := s.cpu.a.toNat * 256 + s.cpu.b.toNat
    execAsld s = .next (s.shiftedD (d * 2 % 65536) (decide (32768 ≤ d))) := by
  have hdouble : (s.d <<< 1).toNat = s.d.toNat * 2 % 65536 := by rw [BitVec.toNat_shiftLeft, Nat.shiftLeft_eq]
  rw [execAsld, setD_shiftFlagsWord, hdouble, getLsbD_fifteen_eq, d_toNat]

theorem execLsrd_eq (s : State) :
    let d := s.cpu.a.toNat * 256 + s.cpu.b.toNat
    execLsrd s = .next (s.shiftedD (d / 2) (d % 2 == 1)) := by
  have hhalf : (s.d >>> 1).toNat = s.d.toNat / 2 := by rw [BitVec.toNat_ushiftRight, Nat.shiftRight_eq_div_pow]
  rw [execLsrd, setD_shiftFlagsWord, hhalf, getLsbD_zero_eq, d_toNat]

/-- Settles O40: a shift moves every bit one place, so that its result and the bit that leaves are those of the numbers. -/
theorem shiftsAccumulators : Obligations.ShiftsAccumulators := by
  unfold Obligations.ShiftsAccumulators
  intro s c a b inA inB d inD
  refine ⟨⟨?asla, ?aslb⟩, ⟨?lsra, ?lsrb⟩, ⟨?asra, ?asrb⟩, ⟨?rola, ?rolb⟩, ⟨?rora, ?rorb⟩, execAsld_eq s, execLsrd_eq s⟩
  case asla => exact unary_a (asl8_eq s.cpu.a c)
  case aslb => exact unary_b (asl8_eq s.cpu.b c)
  case lsra => exact unary_a (lsr8_eq s.cpu.a c)
  case lsrb => exact unary_b (lsr8_eq s.cpu.b c)
  case asra => exact unary_a (asr8_eq s.cpu.a c)
  case asrb => exact unary_b (asr8_eq s.cpu.b c)
  case rola => exact unary_a (rol8_eq s.cpu.a c)
  case rolb => exact unary_b (rol8_eq s.cpu.b c)
  case rora => exact unary_a (ror8_eq s.cpu.a c)
  case rorb => exact unary_b (ror8_eq s.cpu.b c)

end Sys2Proof.Machine
end

section
/-! PROOFS. Branches, jumps and subroutines (43_branch_jump.md, R370 to R394). -/

namespace Sys2Proof.Machine

/-! Branches. -/

/-- Settles O42: every branch is the shared one under its condition, which the model writes in another form for BHI and BGE. -/
theorem conditionalBranches : Obligations.ConditionalBranches := by
  unfold Obligations.ConditionalBranches
  intro s f
  refine ⟨?bra, ?brn, ?bcc, ?bcs, ?bne, ?beq, ?bpl, ?bmi, ?bvc, ?bvs, ?bhi, ?bls, ?bge, ?blt, ?bgt, ?ble⟩
  case bhi => exact branchesWhere_of_branch (fun _ => rfl) (Bool.not_or _ _)
  case bge => exact branchesWhere_of_branch (taken := f.n == f.v) (fun _ => rfl) (Bool.not_not _).symm
  all_goals exact branchesWhere_of_branch (fun _ => rfl) rfl

/-- The two readings of BRSET: no bit of the mask is 0 in the byte, and every bit of it is 1 there. -/
theorem not_and_eq_zero_iff {w : Nat} (x m : BitVec w) : ~~~x &&& m = 0#w ↔ x &&& m = m := by
  have hdiff : ~~~x &&& m = (x &&& m) ^^^ m := by
    apply BitVec.eq_of_getLsbD_eq
    intro k hk
    simp only [BitVec.getLsbD_and, BitVec.getLsbD_not, BitVec.getLsbD_xor, hk, decide_true, Bool.true_and]
    cases x.getLsbD k <;> cases m.getLsbD k <;> rfl
  rw [hdiff, BitVec.xor_eq_zero_iff]

/-- A branch on a byte reads it as an operand and changes nothing more but PC. -/
theorem branchOnByte_eq {test : Byte → Bool} {taken : Bool} {m : Ea} {s : State} (h : test (operand8 (.mem m) s).1 = taken)
    (rr : Byte) :
    branchOnByte test m rr s = .next ((operand8 (.mem m) s).2.withCpu { s.cpu with
      pc := if taken then s.cpu.pc + rr.signExtend 16 else s.cpu.pc }) := by
  subst h
  rw [← operand8_cpu (.mem m) s]
  show branch (test (operand8 (.mem m) s).1) rr (operand8 (.mem m) s).2 = _
  cases test (operand8 (.mem m) s).1 <;> rfl

/-- Settles O43: both are one branch on the byte read. -/
theorem bitBranches : Obligations.BitBranches := by
  unfold Obligations.BitBranches
  refine fun m mm rr s => ⟨_, _, reads8 (.mem m) s, ?brset, ?brclr⟩
  case brset =>
    exact branchOnByte_eq (test := fun b => ~~~b &&& mm = 0) (decide_eq_decide.mpr (not_and_eq_zero_iff _ mm)) rr
  case brclr => exact branchOnByte_eq (test := fun b => b &&& mm = 0) rfl rr

/-! Calls. -/

/-- A call stores the return address from SP down and leaves for the target (R389, R393). -/
theorem call_storesThen (target : Word) (s : State) :
    StoresThen (call target s) s [(s.cpu.sp, lo s.cpu.pc), (s.cpu.sp - 1, hi s.cpu.pc)]
      { s.cpu with sp := s.cpu.sp - 2, pc := target } :=
  storesThen_withCpu (fun c => { c with sp := c.sp - 2, pc := target }) (andThen_assoc _ _ _)

/-- Settles O44: JMP is one update of PC, JSR and BSR are calls of their targets. -/
theorem jumpsAndCalls : Obligations.JumpsAndCalls := by
  unfold Obligations.JumpsAndCalls
  exact fun m rr s => ⟨rfl, call_storesThen (effectiveAddress m s) s, call_storesThen (s.cpu.pc + rr.signExtend 16) s⟩

/-! Returns. -/

/-- Stores outside the register block leave memory where it is. -/
theorem isMemory_storeAll {s : State} {l : List (Word × Byte)} (h : ∀ p ∈ l, isRegister s p.1 = false) (x : Word) :
    isMemory (storeAll s l) x = isMemory s x := by
  obtain ⟨hio, _, hparams, _, _⟩ := storeAll_sameOutside h
  rw [isMemory_congr (congrArg Io.sys hio) hparams, isMemory_core (beats_core _ s)]

/-- What memory holds is read whatever the CPU holds. -/
theorem peek_withCpu (s : State) (c : Cpu) (a : Word) : peek (s.withCpu c) a = peek s a := by
  rw [peek, readByte_withCpu, peek]

/-- A return with the stack in memory: PC is the word above SP, and a beat passes between its bytes (R134, R394). -/
theorem execRts_memory {t : State} (h : isMemory t (t.cpu.sp + 1) = true) (h' : isMemory t (t.cpu.sp + 2) = true) :
    execRts t = .next ((beat t).withCpu { t.cpu with pc := peekWord t (t.cpu.sp + 1), sp := t.cpu.sp + 2 }) := by
  have hcpu : (beat t).cpu = t.cpu := (beat_core t).1
  rw [execRts, pull16_memory h h', ← hcpu]
  rfl

/-- Where a call from the CPU `c` has left the return address in memory, the return restores `c`. -/
theorem execRts_of_called {t : State} {c : Cpu} {target : Word} (hcpu : t.cpu = { c with sp := c.sp - 2, pc := target })
    (hmemHi : isMemory t (c.sp - 1) = true) (hmemLo : isMemory t c.sp = true) (hhi : peek t (c.sp - 1) = hi c.pc)
    (hlo : peek t c.sp = lo c.pc) : execRts t = .next ((beat t).withCpu c) := by
  have hsp1 : t.cpu.sp + 1 = c.sp - 1 := by rw [hcpu]; bv_omega
  have hsp2 : t.cpu.sp + 2 = c.sp := by rw [hcpu]; exact BitVec.sub_add_cancel _ _
  have hword : peekWord t (c.sp - 1) = c.pc := by rw [peekWord, BitVec.sub_add_cancel, hhi, hlo, join_hi_lo]
  rw [execRts_memory (by rwa [hsp1]) (by rwa [hsp2]), hsp1, hsp2, hword, hcpu]

/-- A call with the stack on RAM, no reset coming between its stores, and the return from it: PC and SP are restored. -/
theorem call_then_rts (target : Word) {s : State} (hram : ramAt s (s.cpu.sp - 1) 2 = true) (hquiet : quiet 1 s = true) :
    ∃ t, call target s = .next t ∧ execRts t = .next ((beat t).withCpu s.cpu) := by
  obtain ⟨hholdsHi, hholdsLo⟩ : holdsStores s (s.cpu.sp - 1) = true ∧ holdsStores s s.cpu.sp = true := by
    simpa [ramAt, span, BitVec.sub_add_cancel] using hram
  have hholds : ∀ p ∈ [(s.cpu.sp, lo s.cpu.pc), (s.cpu.sp - 1, hi s.cpu.pc)], holdsStores s p.1 = true :=
    List.forall_mem_cons.mpr ⟨hholdsLo, List.forall_mem_singleton.mpr hholdsHi⟩
  have houtside := fun p hp => isRegister_of_holdsStores (hholds p hp)
  have hread := peek_storeAll_mem _ s hholds (by simp [word_eq_sub]) hquiet
  obtain ⟨_, ⟨rfl, _⟩, hcall⟩ := (call_storesThen target s).1 (accepted_outside _ s houtside)
  refine ⟨_, hcall, execRts_of_called rfl ?memHi ?memLo ?hi ?lo⟩
  case memHi => exact (isMemory_storeAll houtside _).trans (isMemory_of_holdsStores hholdsHi)
  case memLo => exact (isMemory_storeAll houtside _).trans (isMemory_of_holdsStores hholdsLo)
  case hi => exact (peek_withCpu _ _ _).trans (hread (s.cpu.sp - 1, hi s.cpu.pc) (by simp))
  case lo => exact (peek_withCpu _ _ _).trans (hread (s.cpu.sp, lo s.cpu.pc) (by simp))

/-- Settles O45: a return is a pull of PC, and after a call the word it pulls is the one the call stored. -/
theorem returnFromSubroutine : Obligations.ReturnFromSubroutine := by
  unfold Obligations.ReturnFromSubroutine
  refine ⟨?pulls, fun m _ => call_then_rts (effectiveAddress m _)⟩
  case pulls =>
    intro s two
    show execRts s = _
    rw [execRts, pull16_eq]
    rfl

end Sys2Proof.Machine
end

section
/-! PROOFS. The condition-code, interrupt-control and system instructions (44_system.md, R410 to R421; 60_exceptions.md, R440
to R448). -/

namespace Sys2Proof.Machine

/-! CCR as a byte (R27). -/

theorem bit_or (a b : Byte) (k : Nat) : bit (a ||| b) k = (bit a k || bit b k) := BitVec.getLsbD_or

theorem bit_flagBit (on : Bool) (j : Nat) {k : Nat} (hk : k < 8) : bit (flagBit k on) j = (decide (k = j) && on) := by
  cases on with
  | false => rw [Bool.and_false]; exact BitVec.getLsbD_zero
  | true => rw [Bool.and_true]; exact (BitVec.getLsbD_twoPow k j).trans (by rw [decide_eq_true hk, Bool.true_and])

/-- Each flag stands at its own bit. -/
theorem bits_toByte (f : Ccr) :
    let v := f.toByte
    [bit v 7, bit v 6, bit v 5, bit v 4, bit v 3, bit v 2, bit v 1, bit v 0] = [f.s, f.x, f.h, f.i, f.n, f.z, f.v, f.c] := by
  simp [Ccr.toByte, bit_or, bit_flagBit]

/-- Settles O46: each meaning is an update of CCR or of A alone, and TPA's byte holds each flag at its bit. -/
theorem flagInstructions : Obligations.FlagInstructions := by
  unfold Obligations.FlagInstructions
  intro s f a set
  exact ⟨rfl, rfl, rfl, rfl, rfl, rfl, rfl, rfl, f.toByte, rfl, bits_toByte f⟩

/-! STOP and TEST. -/

/-- A failure of the clock monitor makes its reset due, unless that of the pin, the higher one, is due already (R439). -/
theorem raiseReset_clockMonitor (s : State) :
    s.raiseReset .clockMonitor = s.setSys { s.io.sys with
      pendingReset := match s.io.sys.pendingReset with
        | some .pin => some .pin
        | _ => some .clockMonitor } := by
  unfold State.raiseReset
  cases s.io.sys.pendingReset with
  | none => rfl
  | some k => cases k <;> rfl

section
variable {s : State}

theorem execStop_of_set (h : s.cpu.ccr.s = true) : execStop s = .next s := by
  rw [execStop, if_pos h]

theorem execStop_of_clear (h : s.cpu.ccr.s = false) : execStop s = .next (clocksStopped (s.setRun .stopped)) := by
  rw [execStop, if_neg (Bool.eq_false_iff.mp h)]

theorem clocksStopped_monitored (h : (bit s.io.sys.option 3 && !s.resetsDisabled) = true) :
    clocksStopped s = s.raiseReset .clockMonitor := if_pos h

theorem clocksStopped_unmonitored (h : (bit s.io.sys.option 3 && !s.resetsDisabled) = false) : clocksStopped s = s :=
  if_neg (Bool.eq_false_iff.mp h)

theorem execTest_of_special (h : s.smod = true) : execTest s = .next (s.setRun .testing) := if_pos h

theorem execTest_of_normal (h : s.smod = false) : execTest s = raiseIllegalOpcode (s.cpu.pc - 1) s :=
  if_neg (Bool.eq_false_iff.mp h)

end

/-- Settles O47: STOP by S and the clock monitor, TEST by SMOD, whose trap is the common entry. -/
theorem stopAndTest : Obligations.StopAndTest := by
  unfold Obligations.StopAndTest
  intro s due monitored
  refine ⟨execStop_of_set, fun hs hm => ?unmonitored, fun hs hm => ?monitored, execTest_of_special, fun hsmod => ?trap⟩
  case unmonitored =>
    have hstopped : clocksStopped (s.setRun .stopped) = s.setRun .stopped := clocksStopped_unmonitored hm
    exact (execStop_of_clear hs).trans (congrArg _ hstopped)
  case monitored =>
    have hstopped : clocksStopped (s.setRun .stopped) = (s.setRun .stopped).raiseReset .clockMonitor :=
      clocksStopped_monitored hm
    rw [raiseReset_clockMonitor] at hstopped
    exact (execStop_of_clear hs).trans (congrArg _ hstopped)
  case trap =>
    show EntersFrom s (s.cpu.pc - 1) 0xF8 false (execTest s)
    rw [execTest_of_normal hsmod]
    exact takeException_entersFrom (s.cpu.pc - 1) 0xF8 false s

/-! SWI and WAI. -/

/-- WAI stores the frame of an entry and then waits (R421). -/
theorem execWai_storesThen (s : State) :
    StoresThen (execWai s) s (frameBytes s.cpu s.cpu.pc) { s.cpu with sp := s.cpu.sp - 9, run := .waiting } := by
  refine storesThen_of_writeAll ?_ (stores_storeAll s _)
  rw [execWai, pushFrame_eq, andThen_assoc]
  rfl

/-- Settles O48: SWI is the common entry, and WAI its nine stores alone. -/
theorem softwareInterruptAndWait : Obligations.SoftwareInterruptAndWait := by
  unfold Obligations.SoftwareInterruptAndWait
  exact fun s => ⟨takeException_entersFrom s.cpu.pc 0xF6 false s, execWai_storesThen s⟩

/-! RTI: the updates of a state whose CPU is named, and the nine pulls. -/

section
variable (s : State) (c : Cpu)

@[simp] theorem State.withCpu_cpu : (s.withCpu c).cpu = c := rfl
@[simp] theorem State.withCpu_setA (v : Byte) : (s.withCpu c).setA v = s.withCpu { c with a := v } := rfl
@[simp] theorem State.withCpu_setB (v : Byte) : (s.withCpu c).setB v = s.withCpu { c with b := v } := rfl
@[simp] theorem State.withCpu_setIx (v : Word) : (s.withCpu c).setIx v = s.withCpu { c with ix := v } := rfl
@[simp] theorem State.withCpu_setIy (v : Word) : (s.withCpu c).setIy v = s.withCpu { c with iy := v } := rfl
@[simp] theorem State.withCpu_setPc (v : Word) : (s.withCpu c).setPc v = s.withCpu { c with pc := v } := rfl
@[simp] theorem State.withCpu_setCcr (v : Ccr) : (s.withCpu c).setCcr v = s.withCpu { c with ccr := v } := rfl

end

theorem beat_cpu (s : State) : (beat s).cpu = s.cpu := (beat_core s).1

/-- A pull a beat after another access: neither looks at the CPU but for SP and the run state. -/
theorem pull8_beat_withCpu {t : State} {c : Cpu} (hr : c.run = t.cpu.run) :
    pull8 (beat (t.withCpu c)) =
      ((readByte (beat t) (c.sp + 1)).1, (readByte (beat t) (c.sp + 1)).2.withCpu { c with sp := c.sp + 1 }) := by
  rw [beat_withCpu t hr, pull8_withCpu]

/-- The return is nine reads above SP with a beat between each two, whatever the registers pulled on the way (R414, R448). -/
theorem returnFromException_eq (s : State) :
    let p := s.cpu.sp
    let r := readAll s [p + 1, p + 2, p + 3, p + 4, p + 5, p + 6, p + 7, p + 8, p + 9]
    let b (k : Nat) : Byte := r.1.getD k 0
    returnFromException s = r.2.withCpu { s.cpu with
      ccr := s.cpu.ccr.load (b 0), b := b 1, a := b 2, ix := join (b 3) (b 4), iy := join (b 5) (b 6)
      pc := join (b 7) (b 8), sp := p + 9 } := by
  intro p r b
  have hfirst : pull8 s = ((readByte s (p + 1)).1, (readByte s (p + 1)).2.withCpu { s.cpu with sp := p + 1 }) :=
    pull8_withCpu s s.cpu
  simp only [returnFromException, pull16, hfirst, pull8_beat_withCpu, beat_cpu, readByte_cpu, State.withCpu_cpu,
    State.withCpu_setA, State.withCpu_setB, State.withCpu_setIx, State.withCpu_setIy, State.withCpu_setPc,
    State.withCpu_setCcr]
  simp only [r, b, p, readAll, List.getD_cons_zero, List.getD_cons_succ, BitVec.add_assoc, BitVec.reduceAdd,
    BitVec.ofNat_eq_ofNat]

/-- Settles O49: RTI is the return from an exception, and loads CCR as TAP does. -/
theorem returnFromInterrupt : Obligations.ReturnFromInterrupt := by
  unfold Obligations.ReturnFromInterrupt
  exact fun s => congrArg Host.Outcome.next (returnFromException_eq s)

end Sys2Proof.Machine
end

section
/-! PROOFS. The wait state, the stop state and the state of TEST (44_system.md, R418 to R421; 60_exceptions.md, R437 to R445;
70_reset_and_hazards.md, R512). -/

namespace Sys2Proof.Machine

/-! A step without a reset, by the run state. -/

section
variable {s : State} (hreset : (takeInputs s).io.sys.pendingReset = none)
include hreset

theorem step_of_waiting (h : (takeInputs s).cpu.run = .waiting) : step s = waitingStep (takeInputs s) := by
  simp only [step, stepFrom, hreset, h]

theorem step_of_stopped (h : (takeInputs s).cpu.run = .stopped) : step s = stoppedStep (takeInputs s) := by
  simp only [step, stepFrom, hreset, h]

theorem step_of_starting {left : Nat} {w : StopWake} (h : (takeInputs s).cpu.run = .starting left w) :
    step s = startingStep left w (takeInputs s) := by
  simp only [step, stepFrom, hreset, h]

theorem step_of_testing (h : (takeInputs s).cpu.run = .testing) : step s = .next (advance 1 (takeInputs s)) := by
  simp only [step, stepFrom, hreset, h]

end

/-! The wait state. -/

/-- The interrupt of IRQ clears the edge latch, and no other does (R90, R451). -/
theorem acknowledge_eq (r : Request) (s : State) :
    r.acknowledge s = s.setSys { s.io.sys with irqLatch := s.io.sys.irqLatch && r != .maskable .irq } := by
  have hkept {b : Bool} (hb : b = true) : s = s.setSys { s.io.sys with irqLatch := s.io.sys.irqLatch && b } := by
    rw [hb, Bool.and_true]
    rfl
  cases r with
  | xirq => exact hkept rfl
  | maskable i =>
    cases i
    case irq => rw [bne_self_eq_false, Bool.and_false]; rfl
    all_goals exact hkept rfl

theorem setsX_eq (r : Request) : r.setsX = (r == .xirq) := by cases r <;> rfl

/-- A request ends the wait by the tail of the entry sequence, nothing being stacked (R445). -/
theorem wakeFromWait_loadsVector (r : Request) (s : State) :
    LoadsVector beat
      ((s.setSys { s.io.sys with irqLatch := s.io.sys.irqLatch && r != .maskable .irq }).withCpu (maskedCpu s.cpu (r == .xirq)))
      (s.vectorBase + r.vector) (.next (wakeFromWait r s)) := by
  rw [wakeFromWait, acknowledge_eq, setsX_eq]
  exact enterVector_loadsVector r.vector (r == .xirq) _

/-- Settles O11: by the request, the wait goes on or is left through the vector. -/
theorem waitEndsOnlyOnRequest : Obligations.WaitEndsOnlyOnRequest := by
  unfold Obligations.WaitEndsOnlyOnRequest
  intro s u hreset hrun
  have hstep : step s = waitingStep u := step_of_waiting hreset hrun
  refine ⟨fun hnone => ?goesOn, fun r hr => ⟨_, wakeFromWait_loadsVector r u, ?ends⟩⟩
  case goesOn => simp only [hstep, waitingStep, hnone]
  case ends => simp only [hstep, waitingStep, hr, wakeCycles]

/-! The stop state. -/

section
variable {s : State}

theorem stopWake_resume (hpin : s.pins.xirq = false) (hx : s.cpu.ccr.x = true) : stopWake s = some .resume := by
  simp [stopWake, hpin, hx]

theorem stopWake_xirq (hpin : s.pins.xirq = false) (hx : s.cpu.ccr.x = false) : stopWake s = some .xirq := by
  simp [stopWake, hpin, hx]

theorem stopWake_irq (hpin : s.pins.xirq = true) (hirq : (irqPinRequest s && !s.cpu.ccr.i) = true) :
    stopWake s = some .irq := by
  simp only [stopWake, hpin, hirq, Bool.not_true, Bool.false_eq_true, if_false, if_true]

theorem stopWake_none (hpin : s.pins.xirq = true) (hirq : (irqPinRequest s && !s.cpu.ccr.i) = false) : stopWake s = none := by
  simp only [stopWake, hpin, hirq, Bool.not_true, Bool.false_eq_true, if_false]

end

/-- What follows the stop state is what the statements say: both interrupts are the common entry (R418, R444). -/
theorem leaveStop_leavesStop (w : StopWake) (s : State) : LeavesStop w s (leaveStop w s) := by
  cases w with
  | resume => rfl
  | xirq => exact ⟨_, takeException_entersFrom s.cpu.pc 0xF4 true _, rfl⟩
  | irq => exact ⟨_, takeException_entersFrom s.cpu.pc 0xF2 false _, rfl⟩

/-- A stop state that ends does so after the start-up delay where OPTION.DLY = 1, else at once (R512). -/
theorem stoppedStep_ends {s : State} {w : StopWake} (h : stopWake s = some w) :
    (bit s.io.sys.option 4 = true → stoppedStep s = .next (s.setRun (.starting 4064 w))) ∧
      (bit s.io.sys.option 4 = false → LeavesStop w s (stoppedStep s)) := by
  simp only [stoppedStep, h]
  refine ⟨fun hdelay => by rw [if_pos hdelay, startUpCycles], fun hdelay => ?_⟩
  rw [if_neg (Bool.eq_false_iff.mp hdelay)]
  exact leaveStop_leavesStop w s

/-- Settles O12: `stopWake` says what ends the stop state, by the pin of XIRQ, X and the request on IRQ; the delay and the state
of TEST let one cycle pass. -/
theorem stopEndsOnlyOnWakeEvents : Obligations.StopEndsOnlyOnWakeEvents := by
  unfold Obligations.StopEndsOnlyOnWakeEvents
  intro s u irq inState ends hreset
  refine ⟨fun hrun => ?stopped, fun k w hrun => step_of_starting hreset hrun, fun w hrun => ?started, fun hrun => ?testing⟩
  case stopped =>
    have hstep : step s = stoppedStep u := step_of_stopped hreset hrun
    have hends {w : StopWake} (hw : stopWake u = some w) : ends w := by
      have h := stoppedStep_ends hw
      rw [← hstep] at h
      exact h
    refine ⟨fun hpin hx => hends (stopWake_resume hpin hx), fun hpin hx => hends (stopWake_xirq hpin hx),
      fun hpin hirq => hends (stopWake_irq hpin hirq), fun hpin hirq => ?_⟩
    simp only [hstep, stoppedStep, stopWake_none hpin hirq]
  case started =>
    rw [step_of_starting hreset hrun]
    exact leaveStop_leavesStop w u
  case testing =>
    obtain ⟨hcpu, hmem, _⟩ := advance_core 1 u
    exact ⟨_, step_of_testing hreset hrun, hcpu, hmem⟩

end Sys2Proof.Machine
end

section
/-! PROOFS. The bits of a byte that a mask selects (R12). -/

namespace Sys2Proof.Machine

theorem bit_and (a b : Byte) (k : Nat) : bit (a &&& b) k = (bit a k && bit b k) := BitVec.getLsbD_and

theorem bit_merge (mask old new : Byte) {k : Nat} (hk : k < 8) :
    bit (merge mask old new) k = if bit mask k then bit new k else bit old k := by
  have hnot : bit (~~~mask) k = !bit mask k := by
    unfold bit
    rw [BitVec.getLsbD_not, decide_eq_true hk, Bool.true_and]
  rw [merge, bit_or, bit_and, bit_and, hnot]
  cases bit mask k <;> simp

/-- The bits outside the mask of a merge keep their values. -/
theorem merge_and_of_disjoint {mask keep : Byte} (h : mask &&& keep = 0) (old new : Byte) :
    merge mask old new &&& keep = old &&& keep := by
  apply BitVec.eq_of_getLsbD_eq
  intro k hk
  have hbit : (bit mask k && bit keep k) = false := by
    rw [← bit_and, h]
    exact BitVec.getLsbD_zero
  show bit (merge mask old new &&& keep) k = bit (old &&& keep) k
  rw [bit_and, bit_and, bit_merge mask old new hk]
  cases hm : bit mask k with
  | false => rfl
  | true =>
    rw [hm, Bool.true_and] at hbit
    rw [hbit, Bool.and_false, Bool.and_false]

end Sys2Proof.Machine
end

section
/-! PROOFS. An interrupt taken between two instructions (60_exceptions.md, R437 to R451). -/

namespace Sys2Proof.Machine

theorem step_of_running {s : State} (hreset : (takeInputs s).io.sys.pendingReset = none)
    (h : (takeInputs s).cpu.run = .running) : step s = runningStep (takeInputs s) := by
  simp only [step, stepFrom, hreset, h]

/-- A request that has not to wait for an instruction is taken as it stands (R438). -/
theorem recognise_some {s : State} {r : Request} (h : requestOf s = some r) (hnow : r = .xirq ∨ s.cpu.iCleared = false) :
    recognise s = (some r, s) := by
  cases r with
  | xirq => simp only [recognise, h]
  | maskable i =>
    have hkept : s.cpu.iCleared = false := hnow.resolve_left nofun
    simp only [recognise, h, hkept, Bool.false_eq_true, if_false]

theorem xirqTaken_of_requestOf {s : State} (h : requestOf s = some .xirq) : xirqTaken s = true := by
  unfold requestOf at h
  split at h
  · assumption
  · split at h
    · cases h
    · obtain ⟨i, _, hi⟩ := Option.map_eq_some_iff.mp h
      cases hi

/-- XIRQ is taken while X = 0 alone (R437). -/
theorem x_of_requestOf_xirq {s : State} (h : requestOf s = some .xirq) : s.cpu.ccr.x = false := by
  have htaken := xirqTaken_of_requestOf h
  simp only [xirqTaken, Bool.and_eq_true, Bool.not_eq_true'] at htaken
  exact htaken.2

/-- The entry between two instructions is the common one, from the state with the latch of IRQ acknowledged. -/
theorem takeInterrupt_entersFrom (r : Request) (s : State) :
    EntersFrom
      ((s.setICleared false).setSys { s.io.sys with irqLatch := s.io.sys.irqLatch && r != .maskable .irq })
      s.cpu.pc r.vector (r == .xirq) (takeInterrupt r s) := by
  rw [takeInterrupt, acknowledge_eq, setsX_eq]
  exact takeException_entersFrom s.cpu.pc r.vector (r == .xirq) _

/-- Settles O7: the request is recognised as it stands, and its entry is the common one. -/
theorem interruptIsTakenBetweenInstructions : Obligations.InterruptIsTakenBetweenInstructions := by
  unfold Obligations.InterruptIsTakenBetweenInstructions
  intro s r u v hreset hrun hrequest hnow
  refine ⟨?xirq, _, takeInterrupt_entersFrom r u, ?step⟩
  case xirq =>
    rintro rfl
    exact ⟨rfl, x_of_requestOf_xirq hrequest⟩
  case step =>
    rw [step_of_running hreset hrun]
    simp only [runningStep, recognise_some hrequest hnow, entryCycles, u]

end Sys2Proof.Machine
end

section
/-! PROOFS. The priority of the maskable sources, and PSEL (60_exceptions.md, R432 to R450; 10_state.md, R83). -/

namespace Sys2Proof.Machine

/-! The fixed order (R439). -/

theorem mem_fixedOrder (i : IntSource) : i ∈ fixedOrder := by cases i <;> decide

theorem fixedOrder_descends : fixedOrder.Pairwise fun i j => j.vector ≤ i.vector := by decide

/-- The first source of the fixed order that meets a condition has the highest vector of those that do (R439). -/
theorem find?_fixedOrder_highest {p : IntSource → Bool} {i j : IntSource} (h : fixedOrder.find? p = some i)
    (hj : p j = true) : j.vector ≤ i.vector := by
  obtain ⟨_, before, after, horder, hbefore⟩ := List.find?_eq_some_iff_append.mp h
  have hdescends := fixedOrder_descends
  have hmem := mem_fixedOrder j
  rw [horder] at hdescends hmem
  obtain hmem | hmem := List.mem_append.mp hmem
  · exact absurd hj (by simpa using hbefore j hmem)
  · obtain rfl | hmem := List.mem_cons.mp hmem
    · exact BitVec.le_refl _
    · exact List.rel_of_pairwise_cons (List.pairwise_append.mp hdescends).2.1 hmem

/-! The winner (R439, R450). -/

theorem winner_of_promoted {s : State} (h : (promoted s.psel).pending s = true) : winner s = some (promoted s.psel) :=
  List.find?_cons_of_pos h

theorem winner_of_not_promoted {s : State} (h : (promoted s.psel).pending s = false) :
    winner s = fixedOrder.find? fun i => i.pending s := List.find?_cons_of_neg (Bool.eq_false_iff.mp h)

/-- The winner is pending; it is the promoted source, or none is pending with a higher vector (R439, R450). -/
theorem winner_eq_some {s : State} {i : IntSource} (h : winner s = some i) :
    i.pending s = true ∧
      (i = promoted s.psel ∨
        (promoted s.psel).pending s = false ∧ ∀ j : IntSource, j.pending s = true → j.vector ≤ i.vector) := by
  refine ⟨List.find?_some (p := fun i : IntSource => i.pending s) h, ?_⟩
  cases hp : (promoted s.psel).pending s with
  | true => exact .inl (Option.some.inj (h.symm.trans (winner_of_promoted hp)))
  | false =>
    rw [winner_of_not_promoted hp] at h
    exact .inr ⟨rfl, fun j hj => find?_fixedOrder_highest h hj⟩

theorem winner_eq_none_iff (s : State) : winner s = none ↔ ∀ j : IntSource, j.pending s = false := by
  rw [winner, List.find?_eq_none]
  refine ⟨fun h j => Bool.eq_false_iff.mpr (h j (List.mem_cons_of_mem _ (mem_fixedOrder j))), fun h j _ => ?_⟩
  exact Bool.eq_false_iff.mp (h j)

theorem requestOf_masked {s : State} (h : s.cpu.ccr.i = true) (i : IntSource) : requestOf s ≠ some (.maskable i) := by
  unfold requestOf
  rw [h, if_pos rfl]
  split <;> nofun

/-! PSEL (R83). -/

theorem resetHprio_psel (modA modB : Bool) : (resetHprio modA modB).toNat % 16 = 6 := by
  cases modA <;> cases modB <;> decide

theorem toNat_mod_sixteen (x : Byte) : x.toNat % 16 = (x &&& 0x0F).toNat := (Nat.and_two_pow_sub_one_eq_mod x.toNat 4).symm

/-- A write of HPRIO reaches PSEL only while I = 1 (R83, R501). -/
theorem writeHprio_psel {s : State} (h : s.cpu.ccr.i = false) (v : Byte) : (writeHprio v s).psel = s.psel := by
  have hmask : ((if s.smod then 0xC0 else 0) ||| flagBit 5 (s.smod || !s.io.sys.mdaWritten) |||
      flagBit 4 (!s.io.sys.irvWritten) ||| (if s.cpu.ccr.i then 0x0F else 0)) &&& (0x0F : Byte) = 0 := by
    rw [h]
    cases s.smod <;> cases s.io.sys.mdaWritten <;> cases s.io.sys.irvWritten <;> decide
  simp only [State.psel, toNat_mod_sixteen]
  exact congrArg _ (merge_and_of_disjoint hmask _ _)

theorem store_regAddr (s : State) {off : Nat} (h : off < 64) (v : Byte) :
    store s (regAddr s off) v = writeRegister (registerAt off) v s := by
  simp only [store, resolve_regAddr s h]

/-- Settles O9: the winner is found in the promoted source and then in the fixed order, which descends, and a write of HPRIO
merges PSEL only while I = 1. -/
theorem priorityFollowsVectorTable : Obligations.PriorityFollowsVectorTable := by
  unfold Obligations.PriorityFollowsVectorTable
  refine ⟨fun s i => winner_eq_some, winner_eq_none_iff, by decide, by decide, fun s => resetHprio_psel _ _, fun i => rfl,
    fun s i h => requestOf_masked h i, fun s w h => ?_⟩
  rw [store_regAddr s (by decide)]
  exact writeHprio_psel h w

end Sys2Proof.Machine
end

section
/-! PROOFS. What stops a step (20_memory.md, R150; 00_scope.md, R11): the stores of its instruction or entry, and a reset that
finds the part secured. -/

namespace Sys2Proof.Machine

/-- The outcome is a refusal only where a store starts the programming of non-volatile memory or reaches a test facility. -/
def RefusesStoresOnly (o : Result) : Prop := ∀ r, o = .refused r → r = .programsNonVolatile ∨ r = .usesTestFacility

theorem RefusesStoresOnly.next (s : State) : RefusesStoresOnly (.next s) := nofun

theorem RefusesStoresOnly.andThen {o : Result} {f : State → Result} (h : RefusesStoresOnly o)
    (hf : ∀ t, RefusesStoresOnly (f t)) : RefusesStoresOnly (andThen o f) := by
  cases o with
  | next t => exact hf t
  | fault r => cases r
  | refused r => exact h

theorem RefusesStoresOnly.andThenBeat {o : Result} {f : State → Result} (h : RefusesStoresOnly o)
    (hf : ∀ t, RefusesStoresOnly (f t)) : RefusesStoresOnly (andThenBeat o f) := by
  refine h.andThen fun t => ?_
  split
  · exact .next _
  · exact hf _

/-! Which stores are refused. -/

/-- What stops a write of a register (R55, R85, R150). -/
theorem registerRefusal_eq_some {r : IoReg} {v : Byte} {s : State} {x : Refusal} (h : registerRefusal r v s = some x) :
    x = .programsNonVolatile ∨ x = .usesTestFacility := by
  cases r
  case tcntHi | tcntLo | test1 =>
    obtain ⟨_, hx⟩ := Option.ite_none_right_eq_some.mp h
    exact .inr (Option.some.inj hx).symm
  case pprog =>
    obtain ⟨_, hx⟩ := Option.ite_none_left_eq_some.mp h
    exact .inl (Option.some.inj hx).symm
  case eprog =>
    obtain ⟨_, h⟩ := Option.ite_none_right_eq_some.mp h
    split at h
    · exact .inl (Option.some.inj h).symm
    · obtain ⟨_, hx⟩ := Option.ite_none_right_eq_some.mp h
      exact .inr (Option.some.inj hx).symm
  all_goals cases h

theorem storeRefusal_eq_some {s : State} {a : Word} {v : Byte} {x : Refusal} (h : storeRefusal s a v = some x) :
    x = .programsNonVolatile ∨ x = .usesTestFacility := by
  unfold storeRefusal at h
  split at h
  · exact registerRefusal_eq_some h
  all_goals cases h

/-! Accesses. -/

theorem writeByte_refusesStoresOnly (s : State) (a : Word) (v : Byte) : RefusesStoresOnly (writeByte s a v) := by
  unfold writeByte
  cases h : storeRefusal s a v with
  | none => exact .next _
  | some x => exact fun r e => Host.Outcome.refused.inj e ▸ storeRefusal_eq_some h

theorem writeAll_refusesStoresOnly (l : List (Word × Byte)) : ∀ s : State, RefusesStoresOnly (writeAll l s) := by
  induction l with
  | nil => exact .next
  | cons p l ih =>
    intro s
    cases l with
    | nil => exact writeByte_refusesStoresOnly s _ _
    | cons q l => exact (writeByte_refusesStoresOnly s _ _).andThenBeat ih

theorem pushAll_refusesStoresOnly (l : List Byte) (s : State) : RefusesStoresOnly (pushAll l s) :=
  (writeAll_refusesStoresOnly _ s).andThen fun _ => .next _

theorem takeException_refusesStoresOnly (rtn offset : Word) (setX : Bool) (s : State) :
    RefusesStoresOnly (takeException rtn offset setX s) :=
  (pushAll_refusesStoresOnly _ s).andThen fun _ => .next _

theorem readModifyWrite_refusesStoresOnly (m : Ea) (f : Byte → Ccr → Byte × Ccr) (s : State) :
    RefusesStoresOnly (readModifyWrite m f s) := by
  unfold readModifyWrite
  exact (RefusesStoresOnly.next _).andThenBeat fun t => (writeByte_refusesStoresOnly t _ _).andThen fun _ => .next _

/-! The instructions and the step. -/

/-- Every instruction has a meaning, which refuses nothing but its stores. -/
theorem exec_refusesStoresOnly (i : Instr) (s : State) : RefusesStoresOnly (exec i s) := by
  cases i <;> simp only [exec]
  case clr | inc | dec | neg | com | asl | asr | lsr | rol | ror | bset | bclr =>
    exact readModifyWrite_refusesStoresOnly _ _ s
  case psha | pshb | pshx | pshy => exact pushAll_refusesStoresOnly _ s
  case staa | stab => exact (writeByte_refusesStoresOnly s _ _).andThen fun _ => .next _
  case std | sts | stx | sty => exact (writeAll_refusesStoresOnly _ s).andThen fun _ => .next _
  case bsr | jsr => exact (pushAll_refusesStoresOnly _ s).andThen fun _ => .next _
  case swi => exact takeException_refusesStoresOnly _ _ _ s
  case wai => exact (pushAll_refusesStoresOnly _ s).andThen fun _ => .next _
  case test =>
    show RefusesStoresOnly (execTest s)
    unfold execTest
    split
    · exact .next _
    · exact takeException_refusesStoresOnly _ _ _ s
  case daa =>
    show RefusesStoresOnly (execDaa s)
    simp only [execDaa]
    split <;> exact .next _
  all_goals exact .next _

theorem spend_refusesStoresOnly {o : Result} (h : RefusesStoresOnly o) (start n : Nat) : RefusesStoresOnly (spend start n o) :=
  h.andThen fun _ => .next _

theorem takeInterrupt_refusesStoresOnly (r : Request) (s : State) : RefusesStoresOnly (takeInterrupt r s) :=
  takeException_refusesStoresOnly _ _ _ _

theorem runInstruction_refusesStoresOnly (s : State) : RefusesStoresOnly (runInstruction s) := by
  simp only [runInstruction]
  split
  · exact .next _
  · split
    · exact spend_refusesStoresOnly (exec_refusesStoresOnly _ _) _ _
    · exact spend_refusesStoresOnly (takeException_refusesStoresOnly _ _ _ _) _ _

theorem runningStep_refusesStoresOnly (s : State) : RefusesStoresOnly (runningStep s) := by
  unfold runningStep
  split
  · exact spend_refusesStoresOnly (takeInterrupt_refusesStoresOnly _ _) _ _
  · exact runInstruction_refusesStoresOnly _

theorem waitingStep_refusesStoresOnly (s : State) : RefusesStoresOnly (waitingStep s) := by
  unfold waitingStep
  split <;> exact .next _

theorem leaveStop_refusesStoresOnly (w : StopWake) (s : State) : RefusesStoresOnly (leaveStop w s) := by
  cases w with
  | xirq | irq => exact spend_refusesStoresOnly (takeInterrupt_refusesStoresOnly _ _) _ _
  | resume => exact .next _

theorem stoppedStep_refusesStoresOnly (s : State) : RefusesStoresOnly (stoppedStep s) := by
  unfold stoppedStep
  split
  · split
    · exact .next _
    · exact leaveStop_refusesStoresOnly _ s
  · exact .next _

theorem startingStep_refusesStoresOnly (left : Nat) (w : StopWake) (s : State) : RefusesStoresOnly (startingStep left w s) := by
  cases left with
  | zero => exact leaveStop_refusesStoresOnly w s
  | succ k => exact .next _

/-- A step that is not a reset. -/
theorem step_refusesStoresOnly {s : State} (h : (takeInputs s).io.sys.pendingReset = none) : RefusesStoresOnly (step s) := by
  simp only [step, stepFrom, h]
  split
  · exact runningStep_refusesStoresOnly _
  · exact waitingStep_refusesStoresOnly _
  · exact stoppedStep_refusesStoresOnly _
  · exact startingStep_refusesStoresOnly _ _ _
  · exact .next _

theorem performReset_refused {k : ResetKind} {s : State} {r : Refusal} (h : performReset k s = .refused r) :
    r = .securedPart := by
  simp only [performReset] at h
  split at h
  · cases h
  · exact (Host.Outcome.refused.inj h).symm

/-- Settles O22: there is no fault to be had, a step that is not a reset refuses stores alone, and a reset a secured part. -/
theorem stepStopsOnlyAsSpecSays : Obligations.StepStopsOnlyAsSpecSays := by
  unfold Obligations.StepStopsOnlyAsSpecSays
  intro s
  refine ⟨nofun, fun r hr => ?_⟩
  cases hreset : (takeInputs s).io.sys.pendingReset with
  | none => exact (step_refusesStoresOnly hreset r hr).imp_right .inl
  | some k =>
    have hsecured : performReset k (takeInputs s) = .refused r := by
      simpa only [step, stepFrom, hreset] using hr
    exact .inr (.inr ⟨performReset_refused hsecured, rfl⟩)

end Sys2Proof.Machine
end

section
/-! PROOFS. The return from an exception restores what the entry saved (60_exceptions.md, R440 to R448). -/

namespace Sys2Proof.Machine

/-- Loading CCR from the byte that saved it restores it, unless X was cleared in between (R34). -/
theorem load_toByte {c d : Ccr} (h : c.x = true → d.x = true) : d.load c.toByte = c := by
  have hbits := bits_toByte c
  simp only [List.cons.injEq] at hbits
  obtain ⟨hs, hx, hh, hi, hn, hz, hv, hc, _⟩ := hbits
  have hxload : (d.x && c.x) = c.x := Bool.and_eq_right_iff_imp.mpr h
  simp only [Ccr.load, hs, hx, hh, hi, hn, hz, hv, hc, hxload]

/-- The cells of the frame, from the last byte pushed up. -/
theorem span_frameBytes (c : Cpu) (rtn : Word) : span (c.sp - 8) 9 = (frameBytes c rtn).reverse.map Prod.fst := by
  simp only [span, frameBytes, List.reverse_cons, List.reverse_nil, List.nil_append, List.cons_append, List.map_cons,
    List.map_nil, List.cons.injEq, and_true, true_and]
  refine ⟨?_, ?_, ?_, ?_, ?_, ?_, ?_, ?_⟩ <;> bv_omega

theorem frameBytes_nodup (c : Cpu) (rtn : Word) : ((frameBytes c rtn).map Prod.fst).Nodup := by
  simp [frameBytes, word_eq_sub]

/-- The load of PC leaves SP and what memory holds. -/
theorem loadsVector_memory {m t : State} {v : Word} (h : LoadsVector beat m v (.next t)) :
    t.cpu.sp = m.cpu.sp ∧ ∀ a, isMemory m a = true → peek t a = peek m a := by
  obtain ⟨hload, _⟩ := h
  obtain rfl := Host.Outcome.next.inj hload
  exact ⟨rfl, fun a ha => (peek_withCpu (readPair beat m v).2 _ a).trans (peek_core (readPair_core beat_core m v) ha)⟩

/-- With the stack on RAM and no reset coming between its stores, an entry leaves the frame in memory and SP below it (R440). -/
theorem takeException_frame {s t : State} {rtn offset : Word} {setX : Bool} (hram : ramAt s (s.cpu.sp - 8) 9 = true)
    (hquiet : quiet 8 s = true) (ht : takeException rtn offset setX s = .next t) :
    t.cpu.sp = s.cpu.sp - 9 ∧ ∀ p ∈ frameBytes s.cpu rtn, peek t p.1 = p.2 := by
  have hholds : ∀ p ∈ frameBytes s.cpu rtn, holdsStores s p.1 = true := fun p hp => by
    refine List.all_eq_true.mp hram p.1 ?_
    rw [span_frameBytes s.cpu rtn]
    exact List.mem_map_of_mem (List.mem_reverse.mpr hp)
  have houtside := fun p hp => isRegister_of_holdsStores (hholds p hp)
  have hstored := peek_storeAll_mem _ s hholds (frameBytes_nodup s.cpu rtn) hquiet
  have henters := takeException_entersFrom rtn offset setX s
  rw [ht] at henters
  obtain ⟨m, ⟨hm, _⟩, hload⟩ := henters.1 (accepted_outside _ s houtside)
  obtain ⟨hsp, hkept⟩ := loadsVector_memory hload
  refine ⟨hsp, fun p hp => ?_⟩
  have hmem : isMemory m p.1 = true := by
    rw [hm, isMemory_storeAll houtside]
    exact isMemory_of_holdsStores (hholds p hp)
  have hmem' : isMemory (beat m) p.1 = true := (isMemory_core (beat_core m) _).trans hmem
  calc peek t p.1 = peek (beat m) p.1 := (hkept p.1 hmem').trans (peek_withCpu _ _ _)
    _ = peek m p.1 := peek_core (beat_core m) hmem
    _ = p.2 := by rw [hm]; exact hstored p hp

/-- The return, with the stack in memory: what stands above SP, and the nine pulls are eight beats (R414). -/
theorem returnFromException_memory {u : State} (h : ∀ a ∈ span (u.cpu.sp + 1) 9, isMemory u a = true) :
    let b (k : Nat) : Byte := ((span (u.cpu.sp + 1) 9).map (peek u)).getD k 0
    returnFromException u = (beats 8 u).withCpu { u.cpu with
      ccr := u.cpu.ccr.load (b 0), b := b 1, a := b 2, ix := join (b 3) (b 4), iy := join (b 5) (b 6)
      pc := join (b 7) (b 8), sp := u.cpu.sp + 9 } := by
  have hread := readAll_memory _ u h
  rw [returnFromException_eq]
  simp only [span, BitVec.add_assoc, BitVec.reduceAdd, BitVec.ofNat_eq_ofNat] at hread ⊢
  rw [hread]
  rfl

/-- Settles O50: the entry leaves the frame in memory, and the return pulls the same cells in the opposite order. -/
theorem returnRestoresEntry : Obligations.ReturnRestoresEntry := by
  unfold Obligations.ReturnRestoresEntry
  intro s t u rtn offset setX hram hquiet ht hkept hsp hx
  obtain ⟨htsp, hframe⟩ := takeException_frame hram hquiet ht
  have hbelow : u.cpu.sp + 1 = s.cpu.sp - 8 := by rw [hsp, htsp]; bv_omega
  have habove : u.cpu.sp + 9 = s.cpu.sp := by rw [hsp, htsp]; exact BitVec.sub_add_cancel _ _
  have hbytes : (span (u.cpu.sp + 1) 9).map (peek u) = (frameBytes s.cpu rtn).reverse.map Prod.snd := by
    rw [hbelow, List.map_congr_left fun a ha => (hkept a ha).2, span_frameBytes s.cpu rtn, List.map_map]
    exact List.map_congr_left fun p hp => hframe p (List.mem_reverse.mp hp)
  have hrti := returnFromException_memory (u := u) fun a ha => (hkept a (hbelow ▸ ha)).1
  simp only [hbytes, habove] at hrti
  show Host.Outcome.next (returnFromException u) = _
  rw [hrti]
  simp only [frameBytes, List.reverse_cons, List.reverse_nil, List.nil_append, List.cons_append, List.map_cons, List.map_nil,
    List.getD_cons_zero, List.getD_cons_succ, load_toByte hx, join_hi_lo]
  rfl

end Sys2Proof.Machine
end

section
/-! PROOFS. The flag registers of the timer (60_exceptions.md, R469; 20_memory.md, R157). -/

namespace Sys2Proof.Machine

/-- The register at `off` stays where it is over a beat. -/
theorem regAddr_core {s t : State} (h : SameCore s t) (off : Nat) : regAddr t off = regAddr s off := by
  obtain ⟨_, _, _, hinit, _, _⟩ := h
  rw [regAddr, regAddr, hinit]

/-- A read-modify-write of a register that a read leaves alone, no reset coming between its accesses: what `op` makes of the
byte read is written a beat later, to the register as it is by then (R157, R160). -/
theorem readModifyWrite_register {s : State} {m : Ea} {off : Nat} {b : Byte} (op : Byte → Ccr → Byte × Ccr) (hoff : off < 64)
    (haddr : effectiveAddress m s = regAddr s off) (hread : readRegister (registerAt off) s = (b, s))
    (haccepted : ∀ v t, registerRefusal (registerAt off) v t = none) (hquiet : quiet 1 s = true) :
    readModifyWrite m op s =
      .next ((writeRegister (registerAt off) (op b s.cpu.ccr).1 (beat s)).withCpu
        { s.cpu with ccr := (op b s.cpu.ccr).2 }) := by
  have hoperand : operand8 (.mem m) s = (b, s) := by
    show readByte s (effectiveAddress m s) = _
    rw [haddr, readByte_regAddr s hoff, hread]
  have hdue : (beat (operand8 (.mem m) s).2).resetDue = false := by rw [hoperand]; exact (quiet_first hquiet).1
  have hrmw := readModifyWrite_notDue m op hdue
  simp only [hoperand, haddr, ← regAddr_core (beat_core s) off, writeAll, writeByte_regAddr hoff (haccepted _ _),
    andThen_next] at hrmw
  rw [hrmw, (writeRegister_frame _ _ _).cpu, beat_cpu]

/-- Settles O51: a write clears the ones it writes, and BSET and BCLR write their byte to the register a beat later. -/
theorem flagRegistersClearOnes : Obligations.FlagRegistersClearOnes := by
  unfold Obligations.FlagRegistersClearOnes
  intro s w m k with1 with2 old1 old2 u flags clears1 clears2
  refine ⟨writeByte_register, writeByte_register, fun haddr hquiet => ?tflg1, fun haddr hquiet => ?tflg2⟩
  case tflg1 | tflg2 =>
    have hrmw (op) := readModifyWrite_register op (by decide) haddr rfl (fun _ _ => rfl) hquiet
    exact ⟨hrmw (logical (fun x b => b ||| x) k), hrmw (logical (fun x b => b &&& ~~~x) k)⟩

end Sys2Proof.Machine
end

section
/-! PROOFS. The SCI (60_exceptions.md, R470, R472; 10_state.md, R70 to R73). -/

namespace Sys2Proof.Machine

theorem whenClocked_of_running {s : State} (h : s.cpu.run ≠ .stopped) (f : State → State) : whenClocked f s = f s := by
  have hclocked : s.clocked = true := decide_eq_true h
  rw [whenClocked, if_pos hclocked]

/-! The receiver (R71, R73, R470). -/

theorem and_0xFD_of_bit_one_clear {b : Byte} (h : bit b 1 = false) : b &&& 0xFD = b := by
  have hmask : ∀ k < 8, bit 0xFD k = !decide (k = 1) := by decide
  apply BitVec.eq_of_getLsbD_eq
  intro k hk
  show bit (b &&& 0xFD) k = bit b k
  rw [bit_and, hmask k hk]
  by_cases h1 : k = 1
  · rw [h1, h, Bool.false_and]
  · rw [decide_eq_false h1, Bool.not_false, Bool.and_true]

/-- A character `d` is in the receive shift register (R95). -/
def Sci.assembled (p : Sci) (d : BitVec 9) : Sci := { p with lineActive := true, rxShift := d }

/-- The enabled receiver that is not muted delivers the character (R470). -/
theorem sciCharacter_listening {s : State} (hre : bit s.io.sci.sccr2 2 = true) (hrwu : bit s.io.sci.sccr2 1 = false)
    (d : BitVec 9) (noise framing : Bool) :
    sciCharacter d noise framing s = s.setSci ((s.io.sci.assembled d).deliver noise framing) := by
  simp only [sciCharacter, hre, hrwu, and_0xFD_of_bit_one_clear hrwu, not_true_eq_false, Bool.false_eq_true, false_and,
    if_false]
  rfl

theorem deliver_overrun {p : Sci} (h : bit p.scsr 5 = true) (noise framing : Bool) :
    p.deliver noise framing = { p with scsr := p.scsr ||| 0x08 } := if_pos h

theorem deliver_received {p : Sci} (h : bit p.scsr 5 = false) (noise framing : Bool) :
    p.deliver noise framing = { p with
      rx := p.rxShift.setWidth 8
      sccr1 := if bit p.sccr1 4 then merge 0x80 p.sccr1 (flagBit 7 (p.rxShift.getLsbD 8)) else p.sccr1
      scsr := p.scsr ||| 0x20 ||| (if noise then 0x04 else 0) ||| (if framing then 0x02 else 0) } :=
  if_neg (Bool.eq_false_iff.mp h)

/-- R8 is the ninth bit where M = 1, and the rest of SCCR1 stays (R71). -/
theorem deliver_sccr1 {p : Sci} (h : bit p.scsr 5 = false) (noise framing : Bool) :
    let q := p.deliver noise framing
    bit q.sccr1 7 = (if bit p.sccr1 4 then p.rxShift.getLsbD 8 else bit p.sccr1 7) ∧
      q.sccr1 &&& 0x7F = p.sccr1 &&& 0x7F := by
  simp only [deliver_received h]
  cases bit p.sccr1 4 with
  | false => exact ⟨rfl, rfl⟩
  | true =>
    refine ⟨?_, merge_and_of_disjoint (by decide) _ _⟩
    rw [if_pos rfl, if_pos rfl, bit_merge _ _ _ (by decide), if_pos (by decide), bit_flagBit _ _ (by decide)]
    rfl

/-! The transmitter (R70 to R73, R472). -/

/-- The divisors of BAUD.SCP but for the divide by 39 (R70). -/
theorem sciPrescaler_of_scp2 {baud : Byte} (h : bit baud 6 = false) :
    sciPrescaler baud = some (match baud.toNat / 16 % 4 with
      | 0 => 1
      | 1 => 3
      | 2 => 4
      | _ => 13) := by
  have hfield : field2 baud 4 = baud.toNat / 16 % 4 := rfl
  simp only [sciPrescaler, h, hfield]
  generalize baud.toNat / 16 % 4 = scp
  match scp with
  | 0 | 1 | 2 | _ + 3 => rfl

section
variable {s : State} (hte : bit s.io.sci.sccr2 3 = true) (hidle : s.io.sci.left = none) (hbaud : bit s.io.sci.baud 6 = false)
include hte hidle hbaud

/-- The idle shifter of the enabled transmitter takes the buffered character, at a rate that the spec gives (R470). -/
theorem sciShifterReady_full (hfull : bit s.io.sci.scsr 7 = false) :
    (sciShifterReady s).io.sci = { s.io.sci with
      shift := s.io.sci.pending
      left := some (sciCharacterBits s.io.sci.sccr1 * sciBitCycles s.io.sci.baud s.draws)
      scsr := s.io.sci.scsr ||| 0x80 } := by
  simp [sciShifterReady, Sci.bufferFull, hte, hidle, hfull, sciPrescaler_of_scp2 hbaud]

/-- With no character buffered it takes a break, while one is asked for (R72). -/
theorem sciShifterReady_empty (hempty : bit s.io.sci.scsr 7 = true) :
    (sciShifterReady s).io.sci =
      if bit s.io.sci.sccr2 0 then { s.io.sci with
        shift := 0
        left := some (sciCharacterBits s.io.sci.sccr1 * sciBitCycles s.io.sci.baud s.draws) }
      else s.io.sci := by
  cases hbreak : bit s.io.sci.sccr2 0 <;>
    simp [sciShifterReady, Sci.bufferFull, hte, hidle, hempty, hbreak, sciPrescaler_of_scp2 hbaud]

end

theorem idleNext_eq (p : Sci) : p.idleNext = (!bit p.sccr2 3 || bit p.scsr 7 && !bit p.sccr2 0) := by
  rw [Sci.idleNext, Sci.bufferFull, Bool.not_not]

/-- A write of SCCR2 sets TC where the transmitter, its shifter empty, was about to send and no longer is (R72, R73). -/
theorem sci_writeControl_eq (p : Sci) (w : Byte) :
    p.writeControl w = { p with
      sccr2 := w
      scsr := p.scsr |||
        (if p.left.isNone && (bit p.sccr2 3 && (!bit p.scsr 7 || bit p.sccr2 0)) && (!bit w 3 || bit p.scsr 7 && !bit w 0)
          then 0x40 else 0) } := by
  have hbusy : (!p.idleNext) = (bit p.sccr2 3 && (!bit p.scsr 7 || bit p.sccr2 0)) := by
    rw [idleNext_eq, Bool.not_or, Bool.not_and, Bool.not_not, Bool.not_not]
  simp only [Sci.writeControl, hbusy, idleNext_eq { p with sccr2 := w }]
  rfl

/-! Time: no other agent touches the SCI (R511). -/

theorem advanceTimer_sci (n : Nat) (s : State) : (advanceTimer n s).io.sci = s.io.sci := by
  simp only [advanceTimer]
  split <;> rfl

theorem advancePulse_sci (n : Nat) (s : State) : (advancePulse n s).io.sci = s.io.sci := by
  simp only [advancePulse]
  split <;> rfl

theorem advanceSpi_sci (n : Nat) (s : State) : (advanceSpi n s).io.sci = s.io.sci := by
  simp only [advanceSpi]
  split
  · rfl
  · split <;> rfl

theorem advanceStrobe_sci (n : Nat) (s : State) : (advanceStrobe n s).io.sci = s.io.sci := by
  simp only [advanceStrobe]
  split
  · rfl
  · split <;> rfl

theorem advanceCop_sci (n : Nat) (s : State) : (advanceCop n s).io.sci = s.io.sci := by
  simp only [advanceCop]
  split
  · rfl
  · split
    · rfl
    · split <;> rfl

/-- A character in the shifter goes on, or it is out (R470). -/
theorem advanceSci_busy {s : State} {k : Nat} (h : s.io.sci.left = some k) (n : Nat) :
    (advanceSci n s).io.sci =
      if n < k then { s.io.sci with left := some (k - n) }
      else { s.io.sci with left := none, scsr := s.io.sci.scsr ||| flagBit 6 s.io.sci.idleNext } := by
  simp only [advanceSci, h]
  split <;> rfl

theorem advanceSci_congr {s t : State} (h : t.io.sci = s.io.sci) (n : Nat) :
    (advanceSci n t).io.sci = (advanceSci n s).io.sci := by
  simp only [advanceSci, h]
  split
  · exact h
  · split <;> rfl

theorem advance_sci (n : Nat) (s : State) : (advance n s).io.sci = (advanceSci n s).io.sci := by
  have hbefore : (advanceSpi n (advancePulse n (advanceRti n (advanceTimer n s)))).io.sci = s.io.sci :=
    (advanceSpi_sci n _).trans ((advancePulse_sci n _).trans (advanceTimer_sci n s))
  rw [← advanceSci_congr hbefore n]
  exact (advanceCop_sci n _).trans (advanceStrobe_sci n _)

/-- Settles O59: the receiver delivers the character or overruns, the idle shifter takes what is queued, and time and a write of
SCCR2 set TC where nothing is left to send. -/
theorem sciMovesCharacters : Obligations.SciMovesCharacters := by
  unfold Obligations.SciMovesCharacters
  intro s d noise framing p nine hrun
  refine ⟨?receives, ?transmits, fun w => ⟨_, writeByte_register, sci_writeControl_eq p w⟩,
    fun n k hleft => ⟨fun hlt => ?goesOn, fun hle => ?out⟩⟩
  case receives =>
    intro q hre hrwu
    have hq : q = (p.assembled d).deliver noise framing := by
      simp only [q, applyInput, whenClocked_of_running hrun, sciCharacter_listening hre hrwu]
      rfl
    rw [hq]
    refine ⟨fun hempty => ⟨?_, deliver_sccr1 (p := p.assembled d) hempty noise framing⟩,
      fun hfull => deliver_overrun (p := p.assembled d) hfull noise framing⟩
    rw [deliver_received (p := p.assembled d) hempty]
    rfl
  case transmits =>
    intro hte hidle hbaud divisor time q
    have htime : sciCharacterBits s.io.sci.sccr1 * sciBitCycles s.io.sci.baud s.draws = time := by
      rw [sciBitCycles, sciPrescaler_of_scp2 hbaud]
      rfl
    have hq : q = (sciShifterReady s).io.sci := congrArg (·.io.sci) (whenClocked_of_running hrun sciShifterReady)
    rw [hq, ← htime]
    exact ⟨sciShifterReady_full hte hidle hbaud, sciShifterReady_empty hte hidle hbaud⟩
  case goesOn => rw [advance_sci, advanceSci_busy hleft, if_pos hlt]
  case out =>
    rw [advance_sci, advanceSci_busy hleft, if_neg (Nat.not_lt.mpr hle), idleNext_eq]
    rfl

end Sys2Proof.Machine
end

section
/-! PROOFS. The reset sequence (70_reset_and_hazards.md, R490 to R496; 10_state.md, R83, R86, R87; 00_scope.md, R11). -/

namespace Sys2Proof.Machine

/-! The mode latch (R83, R495). -/

theorem bits_resetHprio : ∀ modA modB : Bool,
    let h := resetHprio modA modB
    bit h 6 = !modB ∧ bit h 5 = modA ∧ bit h 7 = (!modB && !modA) ∧ bit h 4 = (!modB && modA) ∧ h &&& 0x0F = 0x06 := by
  decide

/-- Settles O15: the four modes, one by one. -/
theorem resetLatchesMode : Obligations.ResetLatchesMode := by
  unfold Obligations.ResetLatchesMode
  exact fun s => bits_resetHprio s.pins.modA s.pins.modB

/-! The vector (R490, R491). -/

/-- PC loaded from the two bytes read at a vector, whatever comes between them leaving the CPU and the map alone. -/
theorem readPair_loadsVector {between : State → State} (hb : ∀ u, SameCore u (between u)) (m : State) (v : Word) :
    LoadsVector between m v (.next ((readPair between m v).2.setPc (readPair between m v).1)) := by
  have hcpu : (readPair between m v).2.cpu = m.cpu := (readPair_core hb m v).1
  refine ⟨?reads, fun hv hv' => ?memory⟩
  case reads =>
    rw [← hcpu]
    rfl
  case memory =>
    rw [readPair_memory hb hv hv', ← (hb m).1]
    rfl

theorem step_of_reset {s : State} {k : ResetKind} (h : (takeInputs s).io.sys.pendingReset = some k) :
    step s = performReset k (takeInputs s) := by
  simp only [step, stepFrom, h]

theorem performReset_unsecured {s : State} (h : bit (resetRegisters s).io.sys.config 3 = true) (k : ResetKind) :
    LoadsVector id (resetRegisters s) ((resetRegisters s).vectorBase + k.vector) (performReset k s) := by
  rw [performReset, if_pos h]
  exact readPair_loadsVector (fun u => SameCore.refl u) _ _

theorem performReset_secured {s : State} (h : bit (resetRegisters s).io.sys.config 3 = false) (k : ResetKind) :
    performReset k s = .refused .securedPart := by
  rw [performReset, if_neg (Bool.eq_false_iff.mp h)]

/-- The vector base of the mode that the pins select (R433, R495). -/
theorem resetRegisters_vectorBase (s : State) :
    (resetRegisters s).vectorBase = if s.pins.modB then 0xFF00 else 0xBF00 := by
  obtain ⟨hsmod, _⟩ := bits_resetHprio s.pins.modA s.pins.modB
  rw [State.vectorBase, show (resetRegisters s).smod = !s.pins.modB from hsmod]
  cases s.pins.modB <;> rfl

/-- Settles O13: the step is the reset, whose vector is read through the fresh map, and which a secured part refuses. -/
theorem dueResetLoadsItsVector : Obligations.DueResetLoadsItsVector := by
  unfold Obligations.DueResetLoadsItsVector
  intro s k u fresh base offset hdue
  rw [step_of_reset hdue]
  refine ⟨fun hnosec => ?vector, fun hnosec => performReset_secured hnosec k⟩
  case vector =>
    have hoffset : offset = k.vector := by cases k <;> rfl
    rw [hoffset, show base = fresh.vectorBase from (resetRegisters_vectorBase u).symm]
    exact performReset_unsecured hnosec k

/-! The registers (R492 to R494). -/

/-- What a mask clears is 0 under any mask that it does not meet. -/
theorem and_and_of_disjoint {mask keep : Byte} (h : mask &&& keep = 0) (b : Byte) : b &&& mask &&& keep = 0 := by
  rw [BitVec.and_assoc, h]
  exact BitVec.and_zero

/-- DISR is 1 after a reset in the special modes (R467). -/
theorem resetSys_test1_special {s : State} (h : s.pins.modB = false) : (resetSys s).test1 = 0x08 := by
  simp only [resetSys, h]
  rfl

/-- Settles O14: each register is its own Reset row; PORTA, PORTD, SCCR1 and ADCTL are free bytes under a mask. -/
theorem resetGivesRegisterValues : Obligations.ResetGivesRegisterValues := by
  unfold Obligations.ResetGivesRegisterValues
  intro s t
  refine ⟨⟨rfl, rfl, rfl, rfl⟩, ⟨rfl, rfl, rfl, rfl, rfl⟩, ⟨?porta, rfl, rfl, rfl, ?portd, rfl, rfl⟩, rfl,
    ⟨rfl, rfl, rfl, rfl, rfl⟩, ⟨rfl, ?sccr1, rfl, rfl, rfl, rfl⟩, ?adctl,
    ⟨rfl, rfl, rfl, rfl, rfl, resetSys_test1_special⟩, ⟨rfl, rfl, rfl, rfl, rfl, rfl, rfl, rfl, rfl, rfl, rfl⟩⟩
  case porta | portd | sccr1 | adctl => exact and_and_of_disjoint (by decide) _

/-! CONFIG (R86, R87, R496). -/

/-- A Reset row of CONFIG: the bits taken from the cells, those the latch holds, and those that are 1. -/
structure ConfigRow where
  keep : Byte
  hold : Byte
  ones : Byte

/-- The Reset row of a mode, on the MC68HC811E2 and on the other parts. -/
def configRow (e2 modA modB : Bool) : ConfigRow :=
  match e2, modB, modA with
  | true, true, false => ⟨0x0C, 0x00, 0xF3⟩
  | true, false, false => ⟨0x08, 0x04, 0xF3⟩
  | true, true, true => ⟨0xF5, 0x00, 0x0A⟩
  | true, false, true => ⟨0xF0, 0x04, 0x0A⟩
  | false, true, false => ⟨0x0D, 0x00, 0x02⟩
  | false, false, false => ⟨0x0B, 0x04, 0x00⟩
  | false, true, true => ⟨0x07, 0x00, 0x08⟩
  | false, false, true => ⟨0x03, 0x04, 0x08⟩

/-- Bit `k` of CONFIG by the row `r`, from that bit of the cells and of the latch. -/
def ConfigRow.bitOf (r : ConfigRow) (k : Nat) (cell latch : Bool) : Bool :=
  cell && bit r.keep k || latch && bit r.hold k || bit r.ones k

theorem resetConfigBits_eq_row (d : Device) (modA modB : Bool) (cells latch : Byte) :
    let r := configRow (d = .mc68hc811e2) modA modB
    resetConfigBits d modA modB cells latch = cells &&& r.keep ||| latch &&& r.hold ||| r.ones := by
  unfold resetConfigBits
  by_cases hd : d = .mc68hc811e2
  · rw [if_pos hd, decide_eq_true hd]
    cases modB <;> cases modA <;> rfl
  · rw [if_neg hd, decide_eq_false hd]
    cases modB <;> cases modA <;> rfl

/-- CONFIG after reset, bit by bit: the row's, and NOSEC where the security option was not specified (R11). -/
theorem bit_resetConfig (s : State) (k : Nat) :
    bit (resetRegisters s).io.sys.config k =
      ((configRow (s.params.device = .mc68hc811e2) s.pins.modA s.pins.modB).bitOf k (bit s.params.configNv k)
          (bit s.io.sys.config k) ||
        decide (3 = k) && !s.params.securityMask) := by
  show bit (resetConfig s) k = _
  rw [resetConfig, resetConfigBits_eq_row, bit_or, bit_or, bit_or, bit_and, bit_and, bit_flagBit _ _ (by decide),
    ConfigRow.bitOf]

/-- Bytes agree in their upper halves where they agree in the four bits. -/
theorem and_0xF0_congr {a b : Byte} (h : ∀ k < 8, 4 ≤ k → bit a k = bit b k) : a &&& 0xF0 = b &&& 0xF0 := by
  have hlow : ∀ k < 4, bit 0xF0 k = false := by decide
  apply BitVec.eq_of_getLsbD_eq
  intro k hk
  show bit (a &&& 0xF0) k = bit (b &&& 0xF0) k
  rw [bit_and, bit_and]
  obtain hk4 | hk4 := Nat.lt_or_ge k 4
  · rw [hlow k hk4, Bool.and_false, Bool.and_false]
  · rw [h k hk hk4]

/-- NOSEC, in every row. -/
theorem configRow_nosec : ∀ e2 modA modB cell latch mask : Bool,
    ((configRow e2 modA modB).bitOf 3 cell latch || !mask) = (modA || !mask || cell) := by decide

/-- NOCOP, in every row. -/
theorem configRow_nocop : ∀ e2 modA modB cell latch : Bool,
    (configRow e2 modA modB).bitOf 2 cell latch = if modB then cell else latch := by decide

/-- ROMON, which the MC68HC811E2 does not have. -/
theorem configRow_romon : ∀ modA modB cell latch : Bool,
    (configRow false modA modB).bitOf 1 cell latch = (modB && !modA || cell) ∧
      (configRow true modA modB).bitOf 1 cell latch = true := by decide

theorem configRow_eeon : ∀ modA modB cell latch : Bool,
    (configRow false modA modB).bitOf 0 cell latch = cell ∧
      (configRow true modA modB).bitOf 0 cell latch = if modA then modB && cell else true := by decide

/-- EE[3:0], which the MC68HC811E2 alone has. -/
theorem configRow_ee : ∀ k < 8, 4 ≤ k → ∀ modA modB cell latch : Bool,
    (configRow false modA modB).bitOf k cell latch = false ∧
      (configRow true modA modB).bitOf k cell latch = (!modA || cell) := by decide

/-- Every bit but NOSEC is the row's. -/
theorem bit_resetConfig_of_ne {k : Nat} (hk : 3 ≠ k) {s : State} {e2 : Bool}
    (he2 : decide (s.params.device = .mc68hc811e2) = e2) :
    bit (resetRegisters s).io.sys.config k =
      (configRow e2 s.pins.modA s.pins.modB).bitOf k (bit s.params.configNv k) (bit s.io.sys.config k) := by
  rw [bit_resetConfig, he2, decide_eq_false hk, Bool.false_and, Bool.or_false]

/-- Settles O16: each bit is the row's, and the rows agree with what is said of each. -/
theorem resetLoadsConfig : Obligations.ResetLoadsConfig := by
  unfold Obligations.ResetLoadsConfig
  intro s c nv special
  refine ⟨?nosec, ?nocop, fun hd => ?others, fun hd => ?e2⟩
  case nosec =>
    rw [show bit c 3 = _ from bit_resetConfig s 3, decide_eq_true rfl, Bool.true_and]
    exact configRow_nosec _ _ _ _ _ _
  case nocop =>
    rw [show bit c 2 = _ from bit_resetConfig_of_ne (by decide) rfl, configRow_nocop]
    rw [show special = !s.pins.modB from rfl]
    cases s.pins.modB <;> rfl
  case others =>
    have hbit {k : Nat} (hk : 3 ≠ k) : bit c k = _ := bit_resetConfig_of_ne hk (decide_eq_false hd)
    refine ⟨?romon, ?eeon, ?ee⟩
    case romon =>
      rw [hbit (by decide), (configRow_romon _ _ _ _).1, show special = !s.pins.modB from rfl, Bool.not_not]
    case eeon => rw [hbit (by decide), (configRow_eeon _ _ _ _).1]
    case ee =>
      refine and_0xF0_congr (b := 0) fun k hk hk4 => ?_
      rw [hbit (by omega), (configRow_ee k hk hk4 _ _ _ _).1]
      exact BitVec.getLsbD_zero.symm
  case e2 =>
    have hbit {k : Nat} (hk : 3 ≠ k) : bit c k = _ := bit_resetConfig_of_ne hk (decide_eq_true hd)
    refine ⟨?ee, ?romon, ?eeon⟩
    case ee =>
      have hones : ∀ k < 8, bit 0xFF k = true := by decide
      have hee : c &&& 0xF0 = (if s.pins.modA then nv else 0xFF) &&& 0xF0 := by
        refine and_0xF0_congr fun k hk hk4 => ?_
        rw [hbit (by omega), (configRow_ee k hk hk4 _ _ _ _).2]
        cases s.pins.modA with
        | true => rfl
        | false => exact (hones k hk).symm
      rw [hee]
      split <;> rfl
    case romon => rw [hbit (by decide), (configRow_romon _ _ _ _).2]
    case eeon => rw [hbit (by decide), (configRow_eeon _ _ _ _).2, show special = !s.pins.modB from rfl, Bool.not_not]

end Sys2Proof.Machine
end

section
/-! PROOFS. HPRIO and the map after it is written (70_reset_and_hazards.md, R501, R502; 20_memory.md, R136; 10_state.md,
R83). -/

namespace Sys2Proof.Machine

/-! The resource that answers at an address, and why (R136). -/

/-- `AnswersAt s n r`: the resource `r` answers at `n`, by the condition of R136 under which it does. -/
inductive AnswersAt (s : State) (n : Nat) : Region → Prop
  | register (h : inRegisters s n) : AnswersAt s n (.register (n % 4096))
  | ram (hreg : ¬ inRegisters s n) (h : inRam s n) : AnswersAt s n (.ram (n % 4096))
  | bootRom (h : inBootRom s n) : AnswersAt s n (.bootRom n)
  | eeprom (k : Nat) : AnswersAt s n (.eeprom k)
  | rom : AnswersAt s n (.rom n)
  | disabled (hon : bit s.io.sys.config 1 = true) (huse : romUse s.params.device n = .disabled) : AnswersAt s n .nothing
  | external (hmda : s.mda = true) (k : ExtKind) : AnswersAt s n (.ext n k)
  | unmapped (hmda : s.mda = false) : AnswersAt s n .nothing

theorem answersAt_resolveRom (s : State) (n : Nat) : AnswersAt s n (resolve.resolveRom s n) := by
  by_cases hrom : bit s.io.sys.config 1 = true ∧ romUse s.params.device n = .rom
  · obtain ⟨hon, huse⟩ := hrom
    rw [resolveRom_rom hon huse]
    exact .rom
  by_cases hoff : bit s.io.sys.config 1 = true ∧ romUse s.params.device n = .disabled
  · obtain ⟨hon, huse⟩ := hoff
    rw [resolveRom_disabled hon huse]
    exact .disabled hon huse
  rw [resolveRom_external hrom hoff]
  cases hmda : s.mda with
  | true => exact .external hmda _
  | false => exact .unmapped hmda

theorem answersAt_resolve (s : State) (a : Word) : AnswersAt s a.toNat (resolve s a) := by
  by_cases hreg : inRegisters s a.toNat
  · rw [resolve_of_inRegisters hreg]
    exact .register hreg
  by_cases hram : inRam s a.toNat
  · rw [resolve_of_inRam hreg hram]
    exact .ram hreg hram
  by_cases hboot : inBootRom s a.toNat
  · rw [resolve_of_inBootRom hreg hram hboot]
    exact .bootRom hboot
  by_cases hee : ∃ r, inEeprom s a.toNat r
  · obtain ⟨r, hr⟩ := hee
    rw [resolve_of_inEeprom hreg hram hboot hr]
    exact .eeprom _
  rw [resolve_of_outside hreg hram hboot hee]
  exact answersAt_resolveRom s a.toNat

theorem resolve_ram_iff {s : State} {a : Word} {off : Nat} :
    resolve s a = .ram off ↔ ¬ inRegisters s a.toNat ∧ inRam s a.toNat ∧ a.toNat % 4096 = off := by
  refine ⟨fun h => ?_, fun ⟨hreg, hram, hoff⟩ => hoff ▸ resolve_of_inRam hreg hram⟩
  have hanswers := answersAt_resolve s a
  rw [h] at hanswers
  cases hanswers with
  | ram hreg hram => exact ⟨hreg, hram, rfl⟩

theorem inBootRom_of_resolve {s : State} {a : Word} {n : Nat} (h : resolve s a = .bootRom n) : inBootRom s a.toNat := by
  have hanswers := answersAt_resolve s a
  rw [h] at hanswers
  cases hanswers with
  | bootRom hboot => exact hboot

theorem mda_of_resolve_ext {s : State} {a : Word} {n : Nat} {k : ExtKind} (h : resolve s a = .ext n k) : s.mda = true := by
  have hanswers := answersAt_resolve s a
  rw [h] at hanswers
  cases hanswers with
  | external hmda => exact hmda

/-- Where the external bus answers, nothing answers in the disabled ROM alone. -/
theorem disabled_of_resolve_nothing {s : State} {a : Word} (hmda : s.mda = true) (h : resolve s a = .nothing) :
    bit s.io.sys.config 1 = true ∧ romUse s.params.device a.toNat = .disabled := by
  have hanswers := answersAt_resolve s a
  rw [h] at hanswers
  cases hanswers with
  | disabled hon huse => exact ⟨hon, huse⟩
  | unmapped hclear => rw [hmda] at hclear; cases hclear

/-! The bits of HPRIO (R83, R501). -/

/-- The bits of HPRIO that a write reaches: RBOOT and SMOD, MDA, IRVNE, and PSEL. -/
def hprioMask (s : State) : Byte :=
  (if s.smod then 0xC0 else 0) ||| flagBit 5 (s.smod || !s.io.sys.mdaWritten) ||| flagBit 4 (!s.io.sys.irvWritten) |||
    (if s.cpu.ccr.i then 0x0F else 0)

theorem bits_hprioMask (s : State) :
    let m := hprioMask s
    bit m 7 = s.smod ∧ bit m 6 = s.smod ∧ bit m 5 = (s.smod || !s.io.sys.mdaWritten) ∧
      bit m 4 = (!s.io.sys.irvWritten) ∧ m &&& 0x0F = if s.cpu.ccr.i then 0x0F else 0 := by
  unfold hprioMask
  generalize s.smod = special, s.io.sys.mdaWritten = mdaWritten, s.io.sys.irvWritten = irvWritten, s.cpu.ccr.i = i
  revert special mdaWritten irvWritten i
  decide

/-- The bits inside the mask of a merge are the new ones. -/
theorem merge_and_of_subset {mask keep : Byte} (h : mask &&& keep = keep) (old new : Byte) :
    merge mask old new &&& keep = new &&& keep := by
  apply BitVec.eq_of_getLsbD_eq
  intro k hk
  have hbit : (bit mask k && bit keep k) = bit keep k := by rw [← bit_and, h]
  show bit (merge mask old new &&& keep) k = bit (new &&& keep) k
  rw [bit_and, bit_and, bit_merge mask old new hk, ← hbit]
  cases bit mask k <;> simp

section
variable (v : Byte) (s : State)

/-- HPRIO after a write of it. -/
theorem writeHprio_eq :
    writeHprio v s = s.setSys { s.io.sys with
      hprio := merge (hprioMask s) s.io.sys.hprio v
      mdaWritten := s.io.sys.mdaWritten || !s.smod
      irvWritten := true } := rfl

theorem writeHprio_rboot : (writeHprio v s).rboot = if s.smod then bit v 7 else s.rboot := by
  obtain ⟨hmask, _⟩ := bits_hprioMask s
  rw [writeHprio_eq, State.rboot, State.setSys_sys, bit_merge _ _ _ (by decide), hmask]
  rfl

/-- A written 0 clears SMOD for good (R501). -/
theorem writeHprio_smod : (writeHprio v s).smod = (s.smod && bit v 6) := by
  obtain ⟨_, hmask, _⟩ := bits_hprioMask s
  rw [writeHprio_eq, State.smod, State.setSys_sys, bit_merge _ _ _ (by decide), hmask]
  cases hsmod : s.smod with
  | true => rfl
  | false => exact hsmod

theorem writeHprio_mda : (writeHprio v s).mda = if s.smod || !s.io.sys.mdaWritten then bit v 5 else s.mda := by
  obtain ⟨_, _, hmask, _⟩ := bits_hprioMask s
  rw [writeHprio_eq, State.mda, State.setSys_sys, bit_merge _ _ _ (by decide), hmask]
  rfl

theorem writeHprio_irvne :
    bit (writeHprio v s).io.sys.hprio 4 = if s.io.sys.irvWritten then bit s.io.sys.hprio 4 else bit v 4 := by
  obtain ⟨_, _, _, hmask, _⟩ := bits_hprioMask s
  rw [writeHprio_eq, State.setSys_sys, bit_merge _ _ _ (by decide), hmask]
  cases s.io.sys.irvWritten <;> rfl

theorem writeHprio_and_0x0F :
    (writeHprio v s).io.sys.hprio &&& 0x0F = (if s.cpu.ccr.i then v else s.io.sys.hprio) &&& 0x0F := by
  obtain ⟨_, _, _, _, hmask⟩ := bits_hprioMask s
  rw [writeHprio_eq, State.setSys_sys]
  cases hi : s.cpu.ccr.i with
  | true => exact merge_and_of_subset (by rw [hmask, hi]; rfl) _ _
  | false => exact merge_and_of_disjoint (by rw [hmask, hi]; rfl) _ _

/-- The bootstrap ROM is in the map where SMOD was 1 and both it and RBOOT are written 1 (R501, R502). -/
theorem writeHprio_bootRomOn : (writeHprio v s).bootRomOn = (s.smod && bit v 6 && bit v 7) := by
  rw [State.bootRomOn, writeHprio_rboot, writeHprio_smod, Bool.and_comm]
  cases s.smod <;> rfl

theorem writeHprio_vectorBase : (writeHprio v s).vectorBase = if s.smod && bit v 6 then 0xBF00 else 0xFF00 := by
  rw [State.vectorBase, writeHprio_smod]

/-! The map (R136, R502). -/

variable (a : Word)

/-- A write of HPRIO moves neither the register block nor RAM. -/
theorem writeHprio_resolve_inside (off : Nat) :
    (resolve (writeHprio v s) a = .register off ↔ resolve s a = .register off) ∧
      (resolve (writeHprio v s) a = .ram off ↔ resolve s a = .ram off) := by
  rw [resolve_register_iff, resolve_register_iff, resolve_ram_iff, resolve_ram_iff]
  exact ⟨Iff.rfl, Iff.rfl⟩

end

/-- Settles O53: HPRIO is merged under a mask that has each bit's rule, and the map asks RBOOT, SMOD and MDA of it. -/
theorem hprioBitRules : Obligations.HprioBitRules := by
  unfold Obligations.HprioBitRules
  intro s w h special
  refine ⟨writeHprio w s, writeByte_register, rfl, fun hnormal => ?mdaWritten, writeHprio_rboot w s, writeHprio_smod w s,
    writeHprio_mda w s, writeHprio_irvne w s, writeHprio_and_0x0F w s, writeHprio_vectorBase w s, fun a => ?map⟩
  case mdaWritten =>
    show (s.io.sys.mdaWritten || !special) = true
    rw [hnormal, Bool.not_false, Bool.or_true]
  case map =>
    have hboot : (writeHprio w s).bootRomOn = (special && bit w 6 && bit w 7) := writeHprio_bootRomOn w s
    refine ⟨writeHprio_resolve_inside w s a, fun hon houtside hbase htop => ?bootRom, fun hoff n hn => ?noBootRom,
      fun hmda n k hext => ?noExternal, disabled_of_resolve_nothing⟩
    case bootRom =>
      have hreg : ¬ inRegisters s a.toNat := fun hin => houtside ⟨_, .inl (resolve_of_inRegisters hin)⟩
      have hram : ¬ inRam s a.toNat := fun hin => houtside ⟨_, .inr (resolve_of_inRam hreg hin)⟩
      exact resolve_of_inBootRom (s := writeHprio w s) hreg hram ⟨hboot.trans hon, hbase, Nat.lt_succ_of_le htop⟩
    case noBootRom =>
      obtain ⟨hon, _⟩ := inBootRom_of_resolve hn
      rw [hboot, hoff] at hon
      cases hon
    case noExternal =>
      rw [mda_of_resolve_ext hext] at hmda
      cases hmda

end Sys2Proof.Machine
end

section
/-! PROOFS. What a step is made of, down to its reads, its time and the moves of the outside world, and how each of its updates of
the CPU follows on the one before: what sets X, where the latitude after I comes from, and which run states come about (10_state.md,
R34, R94, R96). -/

namespace Sys2Proof.Machine

/-- `d` may follow `c` in a step: X is set by an entry that sets it alone (`setX`), the latitude of R96 arises from an instruction
that clears I alone (`clearI`), and a run state with its delay in range stays one. -/
structure Cpu.Follows (setX clearI : Bool) (c d : Cpu) : Prop where
  x : d.ccr.x = true → c.ccr.x = true ∨ setX = true
  latitude : d.iCleared = true → c.iCleared = true ∨ clearI = true
  run : c.run.legal = true → d.run.legal = true

/-- `t` is `s` after reads, accepted stores, time, moves of the outside world, updates of the CPU that follow on it, and what an
entry or STOP does to the latch of IRQ and to the reset that is due. -/
inductive Evolves (setX clearI : Bool) : State → State → Prop where
  | refl (s : State) : Evolves setX clearI s s
  | cpu {s : State} {c : Cpu} (h : s.cpu.Follows setX clearI c) : Evolves setX clearI s (s.withCpu c)
  | read (s : State) (a : Word) : Evolves setX clearI s (readByte s a).2
  | store {s : State} {a : Word} {v : Byte} (h : storeRefusal s a v = none) : Evolves setX clearI s (store s a v)
  | draw (s : State) (n : Nat) : Evolves setX clearI s (s.drawn n)
  | time (n : Nat) (s : State) : Evolves setX clearI s (advance n s)
  | inputs (s : State) : Evolves setX clearI s (takeInputs s)
  | latch (s : State) (b : Bool) : Evolves setX clearI s (s.setSys { s.io.sys with irqLatch := b })
  | reset (s : State) (k : ResetKind) : Evolves setX clearI s (s.raiseReset k)
  | trans {s t u : State} (h : Evolves setX clearI s t) (k : Evolves setX clearI t u) : Evolves setX clearI s u

/-- Where the outcome `o` is a state, it is one that `s` evolves to. -/
def EvolvesTo (setX clearI : Bool) (s : State) (o : Result) : Prop := ∀ t, o = .next t → Evolves setX clearI s t

/-! The CPU. -/

section
variable {setX clearI setX' clearI' : Bool}

theorem Cpu.Follows.mono (hx : setX = true → setX' = true) (hi : clearI = true → clearI' = true) {c d : Cpu}
    (h : c.Follows setX clearI d) : c.Follows setX' clearI' d :=
  ⟨fun hd => (h.x hd).imp_right hx, fun hd => (h.latitude hd).imp_right hi, h.run⟩

theorem Cpu.Follows.refl (c : Cpu) : c.Follows setX clearI c := ⟨.inl, .inl, id⟩

theorem Cpu.Follows.trans {c d e : Cpu} (h : c.Follows setX clearI d) (k : d.Follows setX clearI e) :
    c.Follows setX clearI e :=
  ⟨fun he => (k.x he).elim h.x .inr, fun he => (k.latitude he).elim h.latitude .inr, fun hc => k.run (h.run hc)⟩

/-- An update of the CPU that leaves X, the run state and the latitude alone. -/
theorem Cpu.Follows.of_eq {c d : Cpu} (hx : d.ccr.x = c.ccr.x := by rfl) (hi : d.iCleared = c.iCleared := by rfl)
    (hrun : d.run = c.run := by rfl) : c.Follows setX clearI d :=
  ⟨fun h => .inl (hx ▸ h), fun h => .inl (hi ▸ h), fun h => hrun ▸ h⟩

/-- A change of the run state alone. -/
theorem Cpu.Follows.of_run {c : Cpu} {r : RunState} (h : c.run.legal = true → r.legal = true) :
    c.Follows setX clearI { c with run := r } := ⟨.inl, .inl, h⟩

/-- The latitude is over (R96). -/
theorem Cpu.Follows.of_iCleared (c : Cpu) : c.Follows setX clearI { c with iCleared := false } := ⟨.inl, nofun, id⟩

theorem Cpu.Follows.of_masked (c : Cpu) : c.Follows setX clearI (maskedCpu c setX) :=
  ⟨fun h => Bool.or_eq_true_iff.mp h, .inl, fun _ => rfl⟩

/-- TAP and RTI clear X, and do not set it (R34). -/
theorem Ccr.load_x {c : Ccr} {v : Byte} (h : (c.load v).x = true) : c.x = true := (Bool.and_eq_true_iff.mp h).1

theorem Cpu.Follows.of_same {c d : Cpu} (h : d = c) : c.Follows setX clearI d := h ▸ .refl d

theorem Evolves.cpu_follows {s t : State} (h : Evolves setX clearI s t) : s.cpu.Follows setX clearI t.cpu := by
  induction h with
  | cpu h => exact h
  | read s a => exact .of_same (readByte_cpu s a)
  | store _ => exact .of_same (store_cpu _ _ _)
  | time n s => exact .of_same (advance_core n s).1
  | inputs s => exact .of_same (takeInputs_core s).1
  | trans _ _ ih ih' => exact ih.trans ih'
  | refl s => exact .refl s.cpu
  | draw s _ | latch s _ | reset s _ => exact .refl s.cpu

theorem Evolves.mono (hx : setX = true → setX' = true) (hi : clearI = true → clearI' = true) {s t : State}
    (h : Evolves setX clearI s t) : Evolves setX' clearI' s t := by
  induction h with
  | refl s => exact .refl s
  | cpu h => exact .cpu (h.mono hx hi)
  | read s a => exact .read s a
  | store h => exact .store h
  | draw s n => exact .draw s n
  | time n s => exact .time n s
  | inputs s => exact .inputs s
  | latch s b => exact .latch s b
  | reset s k => exact .reset s k
  | trans _ _ ih ih' => exact ih.trans ih'

/-! Outcomes. -/

theorem EvolvesTo.next {s t : State} (h : Evolves setX clearI s t) : EvolvesTo setX clearI s (.next t) :=
  fun _ e => Host.Outcome.next.inj e ▸ h

theorem EvolvesTo.after {s t : State} {o : Result} (h : Evolves setX clearI s t) (k : EvolvesTo setX clearI t o) :
    EvolvesTo setX clearI s o := fun u e => h.trans (k u e)

theorem EvolvesTo.andThen {s : State} {o : Result} {f : State → Result} (h : EvolvesTo setX clearI s o)
    (k : ∀ t, o = .next t → EvolvesTo setX clearI t (f t)) : EvolvesTo setX clearI s (andThen o f) := fun u e => by
  obtain ⟨t, ho, hf⟩ := andThen_eq_next e
  exact (h t ho).trans (k t ho u hf)

theorem EvolvesTo.mono (hx : setX = true → setX' = true) (hi : clearI = true → clearI' = true) {s : State} {o : Result}
    (h : EvolvesTo setX clearI s o) : EvolvesTo setX' clearI' s o := fun t e => (h t e).mono hx hi

/-- Whatever sets X or clears I. -/
theorem EvolvesTo.any {s : State} {o : Result} (h : EvolvesTo setX clearI s o) : EvolvesTo true true s o :=
  h.mono (fun _ => rfl) fun _ => rfl

/-! Time and accesses. -/

theorem pause_evolves (s : State) : Evolves setX clearI s (pause s) := by
  unfold pause
  split
  · exact .refl s
  · exact .inputs s

theorem beat_evolves (s : State) : Evolves setX clearI s (beat s) := by
  unfold beat
  split
  · exact .refl s
  · exact (Evolves.time 1 s).trans (.inputs _)

theorem Evolves.beat {s t : State} (h : Evolves setX clearI s t) : Evolves setX clearI s (beat t) := h.trans (beat_evolves t)

/-- The CPU changes after something else that may have changed it. -/
theorem Evolves.withCpu {s t : State} (h : Evolves setX clearI s t) {c : Cpu} (hc : t.cpu.Follows setX clearI c := by exact .of_eq) :
    Evolves setX clearI s (t.withCpu c) := h.trans (.cpu hc)

theorem writeByte_evolves (s : State) (a : Word) (v : Byte) : EvolvesTo setX clearI s (writeByte s a v) := fun _ e => by
  obtain ⟨haccepted, rfl⟩ := writeByte_eq_next.mp e
  exact .store haccepted

theorem writeAll_evolves (l : List (Word × Byte)) : ∀ s : State, EvolvesTo setX clearI s (writeAll l s) := by
  induction l with
  | nil => intro s; exact .next (.refl s)
  | cons p l ih =>
    intro s
    cases l with
    | nil => exact writeByte_evolves s _ _
    | cons q l =>
      refine (writeByte_evolves s _ _).andThen fun t _ => ?_
      split
      · exact .next (beat_evolves t)
      · exact .after (beat_evolves t) (ih _)

/-- Stores leave the CPU alone. -/
theorem writeAll_cpu {l : List (Word × Byte)} {s t : State} (h : writeAll l s = .next t) : t.cpu = s.cpu := by
  cases haccepted : accepted s l with
  | true =>
    rw [writeAll_accepted l s haccepted] at h
    rw [← Host.Outcome.next.inj h, storeAll_cpu]
  | false =>
    obtain ⟨r, hr⟩ := writeAll_not_accepted l s haccepted
    rw [hr] at h
    cases h

theorem readPair_evolves {between : State → State} (hb : ∀ s, Evolves setX clearI s (between s)) (s : State) (a : Word) :
    Evolves setX clearI s (readPair between s a).2 := ((Evolves.read s a).trans (hb _)).trans (.read _ _)

theorem readWord_evolves (s : State) (a : Word) : Evolves setX clearI s (readWord s a).2 := readPair_evolves beat_evolves s a

theorem operand8_evolves (o : Src8) (s : State) : Evolves setX clearI s (operand8 o s).2 := by
  cases o with
  | imm ii => exact .refl s
  | mem m => exact .read s _

theorem operand16_evolves (o : Src16) (s : State) : Evolves setX clearI s (operand16 o s).2 := by
  cases o with
  | imm v => exact .refl s
  | mem m => exact readWord_evolves s _

theorem pushAll_evolves (l : List Byte) (s : State) : EvolvesTo setX clearI s (pushAll l s) :=
  (writeAll_evolves _ s).andThen fun t _ => .next (.cpu (c := { t.cpu with sp := _ }) .of_eq)

theorem pull8_evolves (s : State) : Evolves setX clearI s (pull8 s).2 :=
  (Evolves.cpu (c := { s.cpu with sp := s.cpu.sp + 1 }) .of_eq).trans (.read _ _)

theorem pull16_evolves (s : State) : Evolves setX clearI s (pull16 s).2 := (pull8_evolves s).beat.trans (pull8_evolves _)

theorem fetch8_evolves (s : State) : Evolves setX clearI s (fetch8 s).2 :=
  ((Evolves.read s s.cpu.pc).withCpu (c := { (readByte s s.cpu.pc).2.cpu with pc := _ })).trans (pause_evolves _)

theorem fetchBytes_evolves (n : Nat) : ∀ s : State, Evolves setX clearI s (fetchBytes n s).2 := by
  induction n with
  | zero => exact .refl
  | succ n ih => intro s; exact (fetch8_evolves s).trans (ih _)

theorem fetchInstruction_evolves (s : State) : Evolves setX clearI s (fetchInstruction s).2 := by
  simp only [fetchInstruction]
  split
  · exact (fetch8_evolves s).trans (fetchBytes_evolves _ _)
  · exact ((fetch8_evolves s).trans (fetch8_evolves _)).trans (fetchBytes_evolves _ _)

/-! Exceptions. -/

theorem enterVector_evolves (offset : Word) (s : State) : Evolves setX clearI s (enterVector offset setX s) :=
  ((Evolves.cpu (.of_masked s.cpu)).trans (readWord_evolves _ _)).withCpu

theorem takeException_evolves (rtn offset : Word) (s : State) :
    EvolvesTo setX clearI s (takeException rtn offset setX s) :=
  (pushAll_evolves _ s).andThen fun t _ => .next ((beat_evolves t).trans (enterVector_evolves _ _))

theorem readAll_evolves (as : List Word) : ∀ s : State, Evolves setX clearI s (readAll s as).2 := by
  induction as with
  | nil => exact .refl
  | cons a as ih =>
    intro s
    cases as with
    | nil => exact .read s a
    | cons b as => exact (Evolves.read s a).beat.trans (ih _)

theorem returnFromException_evolves (s : State) : Evolves setX clearI s (returnFromException s) := by
  rw [returnFromException_eq s]
  refine (readAll_evolves _ s).withCpu ?_
  rw [(readAll_core _ s).1]
  exact ⟨fun h => .inl (Ccr.load_x h), .inl, id⟩

/-! The shapes the instructions share. -/

/-- The flags that an operation gives have X as it was. -/
def KeepsX {α : Type} (f : Ccr → α × Ccr) : Prop := ∀ c, (f c).2.x = c.x

theorem accumulate_evolves (r : Acc) {f : Byte → Byte → Ccr → Byte × Ccr} (hf : ∀ x m, KeepsX (f x m)) (o : Src8) (s : State) :
    EvolvesTo setX clearI s (accumulate r f o s) := by
  cases r <;> exact .next ((operand8_evolves o s).withCpu (.of_eq (hf _ _ _)))

theorem unary_evolves (r : Acc) {f : Byte → Ccr → Byte × Ccr} (hf : ∀ m, KeepsX (f m)) (s : State) :
    EvolvesTo setX clearI s (unary r f s) := by
  cases r <;> exact .next (.cpu (.of_eq (hf _ _)))

theorem readModifyWrite_evolves (m : Ea) {f : Byte → Ccr → Byte × Ccr} (hf : ∀ m, KeepsX (f m)) (s : State) :
    EvolvesTo setX clearI s (readModifyWrite m f s) := by
  have hread : Evolves setX clearI s (beat (operand8 (.mem m) s).2) := (operand8_evolves _ s).beat
  cases hdue : (beat (operand8 (.mem m) s).2).resetDue with
  | true =>
    rw [readModifyWrite_due m f hdue]
    exact .next hread
  | false =>
    rw [readModifyWrite_notDue m f hdue]
    refine .after hread ((writeAll_evolves _ _).andThen fun t ht => .next (.cpu (.of_eq ?_)))
    rw [writeAll_cpu ht, beat_cpu, operand8_cpu]
    exact hf _ _

theorem compare8_evolves (r : Acc) {f : Byte → Byte → Ccr → Byte × Ccr} (hf : ∀ x m, KeepsX (f x m)) (o : Src8) (s : State) :
    EvolvesTo setX clearI s (compare8 r f o s) := .next ((operand8_evolves o s).withCpu (.of_eq (hf _ _ _)))

theorem accumulateD_evolves {f : Word → Word → Ccr → Word × Ccr} (hf : ∀ x m, KeepsX (f x m)) (o : Src16) (s : State) :
    EvolvesTo setX clearI s (accumulateD f o s) := .next ((operand16_evolves o s).withCpu (.of_eq (hf _ _ _)))

theorem compare16_evolves (reg : State → Word) (o : Src16) (s : State) : EvolvesTo setX clearI s (compare16 reg o s) :=
  .next (operand16_evolves o s).withCpu

theorem store8_evolves (v : Byte) (m : Ea) (s : State) : EvolvesTo setX clearI s (store8 v m s) :=
  (writeByte_evolves s _ _).andThen fun t _ => .next (.cpu (c := { t.cpu with ccr := _ }) .of_eq)

theorem store16_evolves (v : Word) (m : Ea) (s : State) : EvolvesTo setX clearI s (store16 v m s) :=
  (writeAll_evolves _ s).andThen fun t _ => .next (.cpu (c := { t.cpu with ccr := _ }) .of_eq)

theorem branch_evolves (taken : Bool) (rr : Byte) (s : State) : EvolvesTo setX clearI s (branch taken rr s) := by
  cases taken
  · exact .next (.refl s)
  · exact .next (.cpu (c := { s.cpu with pc := _ }) .of_eq)

theorem branchOnByte_evolves (test : Byte → Bool) (m : Ea) (rr : Byte) (s : State) :
    EvolvesTo setX clearI s (branchOnByte test m rr s) := .after (.read s _) (branch_evolves _ rr _)

theorem call_evolves (target : Word) (s : State) : EvolvesTo setX clearI s (call target s) :=
  (pushAll_evolves _ s).andThen fun t _ => .next (.cpu (c := { t.cpu with pc := target }) .of_eq)

/-! The instructions. -/

theorem execDaa_evolves (s : State) : EvolvesTo setX clearI s (execDaa s) := by
  unfold execDaa
  simp only
  split
  · exact .next ((Evolves.cpu (c := { s.cpu with a := _, ccr := _ }) .of_eq).trans (.draw _ 1))
  · exact .next ((Evolves.cpu (c := { s.cpu with a := _, ccr := _ }) .of_eq).trans (.draw _ 4))

theorem noQuotient_evolves (v c : Bool) (s : State) : Evolves setX clearI s (noQuotient v c s) :=
  (Evolves.draw s 1).withCpu (c := { s.cpu with a := _, b := _, ix := _, ccr := _ })

theorem quotient_evolves (n d : Nat) (s : State) : Evolves setX clearI s (quotient n d s) :=
  .cpu (c := { s.cpu with a := _, b := _, ix := _, ccr := _ }) .of_eq

theorem execFdiv_evolves (s : State) : EvolvesTo setX clearI s (execFdiv s) := by
  refine .next ?_
  split
  · exact noQuotient_evolves _ _ s
  · split
    · exact noQuotient_evolves _ _ s
    · exact quotient_evolves _ _ s

theorem execIdiv_evolves (s : State) : EvolvesTo setX clearI s (execIdiv s) := by
  refine .next ?_
  split
  · exact noQuotient_evolves _ _ s
  · exact quotient_evolves _ _ s

theorem setRun_evolves {s : State} {r : RunState} (h : s.cpu.run.legal = true → r.legal = true) :
    Evolves setX clearI s (s.setRun r) := .cpu (.of_run h)

theorem execStop_evolves (s : State) : EvolvesTo setX clearI s (execStop s) := by
  refine .next ?_
  split
  · exact .refl s
  · unfold clocksStopped
    split
    · exact (setRun_evolves fun _ => rfl).trans (.reset _ _)
    · exact setRun_evolves fun _ => rfl

theorem execTest_evolves (s : State) : EvolvesTo false clearI s (execTest s) := by
  unfold execTest
  split
  · exact .next (setRun_evolves fun _ => rfl)
  · exact takeException_evolves _ _ s

/-- The instructions that clear I where it is 1, so that the latitude of R96 applies. -/
def clearsI : Instr → Bool
  | .cli | .tap => true
  | _ => false

/-- What an instruction evolves to, by its shape. -/
theorem exec_evolves (i : Instr) (s : State) : EvolvesTo false (clearsI i) s (exec i s) := by
  cases i <;> simp only [exec]
  case clr | inc | dec | neg | com | asl | asr | lsr | rol | ror | bset | bclr =>
    exact readModifyWrite_evolves _ (fun _ _ => rfl) s
  case ldaa | ldab => exact .next (operand8_evolves _ s).withCpu
  case ldd | lds | ldx | ldy => exact .next (operand16_evolves _ s).withCpu
  case adca | adcb | adda | addb | sbca | sbcb | suba | subb | anda | andb | oraa | orab | eora | eorb =>
    exact accumulate_evolves _ (fun _ _ _ => rfl) _ s
  case cmpa | cmpb | bita | bitb => exact compare8_evolves _ (fun _ _ _ => rfl) _ s
  case addd | subd => exact accumulateD_evolves (fun _ _ _ => rfl) _ s
  case cpd | cpx | cpy => exact compare16_evolves _ _ s
  case clra | clrb | aba | sba | inca | incb | deca | decb | nega | negb | coma | comb | asla | aslb | asra | asrb | lsra |
      lsrb | rola | rolb | rora | rorb =>
    exact unary_evolves _ (fun _ _ => rfl) s
  case tst => exact .next (Evolves.read s _).withCpu
  case psha | pshb | pshx | pshy => exact pushAll_evolves _ s
  case pula | pulb => exact .next (pull8_evolves s).withCpu
  case pulx | puly | rts => exact .next (pull16_evolves s).withCpu
  case staa | stab => exact store8_evolves _ _ s
  case std | sts | stx | sty => exact store16_evolves _ _ s
  case bcc | bcs | beq | bge | bgt | bhi | ble | bls | blt | bmi | bne | bpl | bra | brn | bvc | bvs =>
    exact branch_evolves _ _ s
  case brclr | brset => exact branchOnByte_evolves _ _ _ s
  case bsr | jsr => exact call_evolves _ s
  case daa => exact execDaa_evolves s
  case fdiv => exact execFdiv_evolves s
  case idiv => exact execIdiv_evolves s
  case nop => exact .next (.refl s)
  case rti => exact .next (returnFromException_evolves s)
  case stop => exact execStop_evolves s
  case swi => exact takeException_evolves _ _ s
  case test => exact execTest_evolves s
  case wai => exact (pushAll_evolves _ s).andThen fun t _ => .next (setRun_evolves fun _ => rfl)
  case cli => exact .next (.cpu ⟨.inl, fun _ => .inr rfl, id⟩)
  case tap => exact .next (.cpu ⟨fun h => .inl (Ccr.load_x h), fun _ => .inr rfl, id⟩)
  all_goals exact .next (.cpu .of_eq)

/-! The step. -/

theorem spend_evolves {s : State} {o : Result} (h : EvolvesTo setX clearI s o) (start n : Nat) :
    EvolvesTo setX clearI s (spend start n o) := by
  refine h.andThen fun t _ => .next ?_
  split
  · exact .refl t
  · exact .time _ t

theorem acknowledge_evolves (r : Request) (s : State) : Evolves setX clearI s (r.acknowledge s) := by
  rw [acknowledge_eq]
  exact .latch s _

/-- An entry sets X where its request does, that of XIRQ (R444). -/
theorem takeInterrupt_evolves (r : Request) (s : State) : EvolvesTo r.setsX clearI s (takeInterrupt r s) :=
  .after ((Evolves.cpu (.of_iCleared s.cpu)).trans (acknowledge_evolves r _)) (takeException_evolves _ _ _)

theorem wakeFromWait_evolves (r : Request) (s : State) : Evolves r.setsX clearI s (wakeFromWait r s) :=
  (acknowledge_evolves r s).trans (enterVector_evolves _ _)

theorem recognise_evolves (s : State) : Evolves setX clearI s (recognise s).2 := by
  unfold recognise
  split
  · split
    · exact .draw s 1
    · exact .refl s
  · exact .refl s

theorem runInstruction_evolves (s : State) : EvolvesTo false true s (runInstruction s) := by
  have hfetch : Evolves false true s (fetchInstruction (s.setICleared false)).2 :=
    (Evolves.cpu (.of_iCleared s.cpu)).trans (fetchInstruction_evolves _)
  unfold runInstruction
  simp only
  split
  · exact .next hfetch
  · split
    · exact .after hfetch (spend_evolves ((exec_evolves _ _).mono id fun _ => rfl) _ _)
    · exact .after hfetch (spend_evolves (takeException_evolves _ _ _) _ _)

theorem runningStep_evolves (s : State) : EvolvesTo true true s (runningStep s) := by
  have hrecognise := recognise_evolves (setX := true) (clearI := true) s
  unfold runningStep
  split
  · next r t e =>
    rw [e] at hrecognise
    exact .after hrecognise (spend_evolves (takeInterrupt_evolves (clearI := true) r t).any _ _)
  · next t e =>
    rw [e] at hrecognise
    exact .after hrecognise (runInstruction_evolves t).any

theorem waitingStep_evolves (s : State) : EvolvesTo true true s (waitingStep s) := by
  unfold waitingStep
  split
  · next r _ => exact spend_evolves (EvolvesTo.next (wakeFromWait_evolves (clearI := true) r s)).any _ _
  · exact .next (.time 1 s)

theorem leaveStop_evolves (w : StopWake) (s : State) : EvolvesTo true true s (leaveStop w s) := by
  have hrun : Evolves true true s (s.setRun .running) := setRun_evolves fun _ => rfl
  have henter (r : Request) : EvolvesTo true true (s.setRun .running)
      (spend s.io.sys.cycles entryCycles (takeInterrupt r (s.setRun .running))) :=
    spend_evolves (takeInterrupt_evolves (clearI := true) r _).any _ _
  cases w with
  | xirq | irq => exact .after hrun (henter _)
  | resume => exact .next hrun

theorem stoppedStep_evolves (s : State) : EvolvesTo true true s (stoppedStep s) := by
  unfold stoppedStep
  split
  · split
    · exact .next (setRun_evolves fun _ => rfl)
    · exact leaveStop_evolves _ s
  · exact .next (.refl s)

theorem startingStep_evolves {left : Nat} {w : StopWake} {s : State} (h : s.cpu.run = .starting left w) :
    EvolvesTo true true s (startingStep left w s) := by
  cases left with
  | zero => exact leaveStop_evolves w s
  | succ k =>
    refine .next ((setRun_evolves fun hlegal => ?_).trans (.time 1 _))
    rw [h] at hlegal
    simp only [RunState.legal, decide_eq_true_eq] at hlegal ⊢
    omega

/-- A step that is not a reset. -/
theorem step_evolves {s : State} (h : (takeInputs s).io.sys.pendingReset = none) : EvolvesTo true true s (step s) := by
  refine .after (.inputs s) ?_
  simp only [step, stepFrom, h]
  split
  · exact runningStep_evolves _
  · exact waitingStep_evolves _
  · exact stoppedStep_evolves _
  · next hrun => exact startingStep_evolves hrun
  · exact .next (.time 1 _)

/-- A step that is a reset, where the part does not come up secured: the registers are reset, and PC is loaded. -/
theorem step_reset_evolves {s t : State} {k : ResetKind} (h : (takeInputs s).io.sys.pendingReset = some k)
    (ht : step s = .next t) :
    bit (resetRegisters (takeInputs s)).io.sys.config 3 = true ∧ Evolves true true (resetRegisters (takeInputs s)) t := by
  rw [step_of_reset h, performReset] at ht
  split at ht
  · next hnosec =>
    obtain rfl := Host.Outcome.next.inj ht
    exact ⟨hnosec, (readPair_evolves .refl _ _).withCpu⟩
  · cases ht

end

end Sys2Proof.Machine
end

section
/-! PROOFS. What sets X (10_state.md, R34; 60_exceptions.md, R437, R444). -/

namespace Sys2Proof.Machine

/-- Where the outcome `o` is a state, X is 1 in it only if it was 1 in `s`, or an XIRQ entry that `xirq` allows set it and I. -/
def KeepsXBut (xirq : Prop) (s : State) (o : Result) : Prop :=
  ∀ t, o = .next t → t.cpu.ccr.x = true → s.cpu.ccr.x = true ∨ (t.cpu.ccr.i = true ∧ xirq)

section
variable {xirq : Prop}

theorem KeepsXBut.mono {p : Prop} (h : p → xirq) {s : State} {o : Result} (k : KeepsXBut p s o) : KeepsXBut xirq s o :=
  fun t ht hx => (k t ht hx).imp_right fun ⟨hi, hp⟩ => ⟨hi, h hp⟩

/-- From a state with the same CPU. -/
theorem KeepsXBut.of_same {s t : State} {o : Result} (h : t.cpu = s.cpu) (k : KeepsXBut xirq t o) : KeepsXBut xirq s o :=
  fun u hu => h ▸ k u hu

theorem KeepsXBut.of_evolvesTo {clearI : Bool} {s : State} {o : Result} (h : EvolvesTo false clearI s o) :
    KeepsXBut xirq s o := fun t ht hx => ((h t ht).cpu_follows.x hx).imp_right nofun

theorem KeepsXBut.of_cpu_eq {s t : State} (h : t.cpu = s.cpu) : KeepsXBut xirq s (.next t) := fun u hu hx => by
  obtain rfl := Host.Outcome.next.inj hu
  exact .inl (h ▸ hx)

/-- An entry sets I (R440). -/
theorem enterVector_i (offset : Word) (setX : Bool) (s : State) : (enterVector offset setX s).cpu.ccr.i = true := by
  show (readWord (s.withCpu (maskedCpu s.cpu setX)) _).2.cpu.ccr.i = true
  rw [(readWord_core _ _).1]
  rfl

theorem spend_cpu {o : Result} {start n : Nat} {t : State} (h : spend start n o = .next t) :
    ∃ u, o = .next u ∧ t.cpu = u.cpu := by
  obtain ⟨u, ho, hu⟩ := andThen_eq_next h
  refine ⟨u, ho, ?_⟩
  obtain rfl := Host.Outcome.next.inj hu
  split
  · rfl
  · exact (advance_core _ u).1

theorem spend_takeInterrupt_i {r : Request} {s t : State} {start n : Nat}
    (h : spend start n (takeInterrupt r s) = .next t) : t.cpu.ccr.i = true := by
  obtain ⟨u, hu, hcpu⟩ := spend_cpu h
  obtain ⟨v, _, hv⟩ := andThen_eq_next hu
  rw [hcpu, ← Host.Outcome.next.inj hv]
  exact enterVector_i _ _ _

/-- An entry between two instructions sets X where it is that of XIRQ alone (R444). -/
theorem spend_takeInterrupt_keepsXBut {r : Request} (h : r = .xirq → xirq) (s : State) (start n : Nat) :
    KeepsXBut xirq s (spend start n (takeInterrupt r s)) := by
  cases r with
  | xirq => exact fun t ht _ => .inr ⟨spend_takeInterrupt_i ht, h rfl⟩
  | maskable i => exact .of_evolvesTo (clearI := false) (spend_evolves (takeInterrupt_evolves (.maskable i) s) _ _)

theorem spend_wakeFromWait_keepsXBut {r : Request} (h : r = .xirq → xirq) (s : State) (start n : Nat) :
    KeepsXBut xirq s (spend start n (.next (wakeFromWait r s))) := by
  cases r with
  | xirq =>
    intro t ht _
    obtain ⟨u, hu, hcpu⟩ := spend_cpu ht
    rw [hcpu, ← Host.Outcome.next.inj hu]
    exact .inr ⟨enterVector_i _ _ _, h rfl⟩
  | maskable i => exact .of_evolvesTo (clearI := false) (spend_evolves (.next (wakeFromWait_evolves (.maskable i) s)) _ _)

theorem leaveStop_keepsXBut {w : StopWake} (h : w = .xirq → xirq) (s : State) : KeepsXBut xirq s (leaveStop w s) := by
  cases w with
  | xirq => exact spend_takeInterrupt_keepsXBut (fun _ => h rfl) (s.setRun .running) _ _
  | irq => exact spend_takeInterrupt_keepsXBut nofun (s.setRun .running) _ _
  | resume => exact .of_evolvesTo (clearI := false) (.next (setRun_evolves fun _ => rfl))

end

/-! Where XIRQ is taken. -/

theorem pin_of_requestOf_xirq {s : State} (h : requestOf s = some .xirq) : s.pins.xirq = false := by
  have htaken := xirqTaken_of_requestOf h
  simp only [xirqTaken, Bool.and_eq_true, Bool.not_eq_true'] at htaken
  exact htaken.1

/-- What is recognised is what is requested, or it waits (R96). -/
theorem recognise_fst (s : State) : (recognise s).1 = requestOf s ∨ (recognise s).1 = none := by
  unfold recognise
  split
  · next i hi =>
    split
    · dsimp only
      split
      · exact .inr rfl
      · exact .inl hi.symm
    · exact .inl hi.symm
  · exact .inl rfl

theorem pin_of_stopWake_xirq {s : State} (h : stopWake s = some .xirq) : s.pins.xirq = false := by
  unfold stopWake at h
  split at h
  · next hpin => simpa using hpin
  · split at h <;> cases h

theorem runningStep_keepsXBut (s : State) : KeepsXBut (s.pins.xirq = false) s (runningStep s) := by
  have hcore := recognise_core s
  have hrequest := recognise_fst s
  unfold runningStep
  split
  · next r t e =>
    rw [e] at hcore hrequest
    have hr : requestOf s = some r := (hrequest.resolve_right nofun).symm
    exact .of_same hcore.1 (spend_takeInterrupt_keepsXBut (fun hx => pin_of_requestOf_xirq (hx ▸ hr)) t _ _)
  · next t e =>
    rw [e] at hcore
    exact .of_same hcore.1 (.of_evolvesTo (runInstruction_evolves t))

theorem waitingStep_keepsXBut (s : State) : KeepsXBut (s.pins.xirq = false) s (waitingStep s) := by
  unfold waitingStep
  split
  · next hr => exact spend_wakeFromWait_keepsXBut (fun hx => pin_of_requestOf_xirq (hx ▸ hr)) s _ _
  · exact .of_cpu_eq (advance_core 1 s).1

theorem stoppedStep_keepsXBut (s : State) : KeepsXBut (s.pins.xirq = false) s (stoppedStep s) := by
  unfold stoppedStep
  split
  · next hw =>
    split
    · exact .of_evolvesTo (clearI := false) (.next (setRun_evolves fun _ => rfl))
    · exact leaveStop_keepsXBut (fun hx => pin_of_stopWake_xirq (hx ▸ hw)) s
  · exact .of_cpu_eq rfl

theorem startingStep_keepsXBut (left : Nat) (w : StopWake) (s : State) :
    KeepsXBut (RunState.starting left w = .starting 0 .xirq) s (startingStep left w s) := by
  cases left with
  | zero => exact leaveStop_keepsXBut (fun hw => hw ▸ rfl) s
  | succ k => exact fun t ht hx => .inl (by rw [← Host.Outcome.next.inj ht, (advance_core 1 _).1] at hx; exact hx)

/-- A step that is not a reset sets X by an XIRQ entry alone, at a low pin, or at the end of the delay after a stop state that
one ended. -/
theorem step_keepsXBut {s : State} (h : (takeInputs s).io.sys.pendingReset = none) :
    KeepsXBut ((takeInputs s).pins.xirq = false ∨ s.cpu.run = .starting 0 .xirq) s (step s) := by
  have hcpu : (takeInputs s).cpu = s.cpu := (takeInputs_core s).1
  refine .of_same hcpu ?_
  simp only [step, stepFrom, h, ← hcpu]
  split
  · exact (runningStep_keepsXBut _).mono .inl
  · exact (waitingStep_keepsXBut _).mono .inl
  · exact (stoppedStep_keepsXBut _).mono .inl
  · next hrun => exact (startingStep_keepsXBut _ _ _).mono fun hstart => .inr (hrun.trans hstart)
  · exact .of_cpu_eq (advance_core 1 _).1

/-- Settles O19: without a reset only an XIRQ entry sets X, which TAP and RTI load as the old X and the bit. -/
theorem xIsSetOnlyByResetOrXirq : Obligations.XIsSetOnlyByResetOrXirq := by
  unfold Obligations.XIsSetOnlyByResetOrXirq
  refine ⟨fun s t ht hx hclear => ?step, fun s t ht => ?tap, fun s t ht => ?rti, fun s hx hxirq => ?masked⟩
  case step =>
    cases hreset : (takeInputs s).io.sys.pendingReset with
    | some k => exact .inl rfl
    | none => exact .inr ((step_keepsXBut hreset t ht hx).resolve_left (Bool.eq_false_iff.mp hclear))
  case tap =>
    obtain rfl := Host.Outcome.next.inj ht
    rfl
  case rti =>
    obtain rfl := Host.Outcome.next.inj ht
    rw [returnFromException_eq s]
    rfl
  case masked =>
    rw [x_of_requestOf_xirq hxirq] at hx
    cases hx

/-! The latitude after an instruction that cleared I (10_state.md, R96; 70_reset_and_hazards.md, R506). -/

section
variable (s : State)

/-- A fetched byte moves PC alone of the CPU. -/
theorem fetch8_ccr : (fetch8 s).2.cpu.ccr = s.cpu.ccr := by
  rw [fetch8, (pause_core _).1, State.setPc_ccr, readByte_cpu]

theorem fetchBytes_ccr (n : Nat) : ∀ s : State, (fetchBytes n s).2.cpu.ccr = s.cpu.ccr := by
  induction n with
  | zero => exact fun _ => rfl
  | succ n ih => exact fun s => (ih _).trans (fetch8_ccr s)

theorem fetchInstruction_ccr : (fetchInstruction s).2.cpu.ccr = s.cpu.ccr := by
  simp only [fetchInstruction]
  split
  · exact (fetchBytes_ccr _ _).trans (fetch8_ccr s)
  · exact (fetchBytes_ccr _ _).trans ((fetch8_ccr _).trans (fetch8_ccr s))

end

theorem Evolves.not_iCleared {setX : Bool} {s t : State} (h : Evolves setX false s t) (hs : s.cpu.iCleared = false) :
    t.cpu.iCleared = false :=
  Bool.eq_false_iff.mpr fun ht => Bool.eq_false_iff.mp hs ((h.cpu_follows.latitude ht).resolve_right nofun)

/-- Where I is 0 no instruction clears it, CLI and TAP included (R96). -/
theorem exec_not_iCleared {s t : State} {i : Instr} (hi : s.cpu.ccr.i = false) (hs : s.cpu.iCleared = false)
    (ht : exec i s = .next t) : t.cpu.iCleared = false := by
  cases hclears : clearsI i with
  | false =>
    have hevolves := exec_evolves i s t ht
    rw [hclears] at hevolves
    exact hevolves.not_iCleared hs
  | true =>
    cases i
    case cli =>
      obtain rfl := Host.Outcome.next.inj ht
      exact hi
    case tap =>
      obtain rfl := Host.Outcome.next.inj ht
      show (s.cpu.ccr.i && _) = false
      rw [hi, Bool.false_and]
    all_goals cases hclears

/-- An instruction that begins with I = 0 leaves no latitude. -/
theorem runInstruction_not_iCleared {s t : State} (hi : s.cpu.ccr.i = false) (ht : runInstruction s = .next t) :
    t.cpu.iCleared = false := by
  have hfetch : (fetchInstruction (s.setICleared false)).2.cpu.iCleared = false :=
    (fetchInstruction_evolves (setX := false) (s.setICleared false)).not_iCleared rfl
  have hccr : (fetchInstruction (s.setICleared false)).2.cpu.ccr.i = false :=
    (congrArg Ccr.i (fetchInstruction_ccr (s.setICleared false))).trans hi
  unfold runInstruction at ht
  simp only at ht
  split at ht
  · obtain rfl := Host.Outcome.next.inj ht
    exact hfetch
  · split at ht
    · obtain ⟨u, hu, hcpu⟩ := spend_cpu ht
      rw [hcpu]
      exact exec_not_iCleared hccr hfetch hu
    · exact (spend_evolves (takeException_evolves _ _ _) _ _ t ht).not_iCleared hfetch

theorem i_of_requestOf_maskable {s : State} {i : IntSource} (h : requestOf s = some (.maskable i)) : s.cpu.ccr.i = false :=
  Bool.eq_false_iff.mpr fun hi => requestOf_masked hi i h

/-- After an instruction that cleared I a free value says whether a maskable request waits (R96, R506). -/
theorem recognise_latitude {s : State} {i : IntSource} (hi : s.cpu.iCleared = true) (h : requestOf s = some (.maskable i)) :
    recognise s = (if Config.freeBit s.draws then none else some (.maskable i), s.drawn 1) := by
  simp only [recognise, h, hi, if_true]

/-- Settles O10: the free value takes the request or lets an instruction run, which begins with I = 0. -/
theorem latitudeAfterClearingI : Obligations.LatitudeAfterClearingI := by
  unfold Obligations.LatitudeAfterClearingI
  intro s i u v hreset hrun hcleared hrequest
  refine ⟨?either, fun t => runInstruction_not_iCleared (s := v) (i_of_requestOf_maskable hrequest)⟩
  case either =>
    rw [step_of_running hreset hrun, runningStep, recognise_latitude hcleared hrequest]
    cases Config.freeBit u.draws with
    | true => exact .inr rfl
    | false => exact .inl rfl

end Sys2Proof.Machine
end

section
/-! PROOFS. The invariant, device by device (10_state.md, R40; 20_memory.md, R137, R150; 00_scope.md, R11): what the operations of
a legal device make of it is legal. -/

namespace Sys2Proof.Machine

/-! Bits that stay 0. -/

theorem or_and_distrib (a b m : Byte) : (a ||| b) &&& m = a &&& m ||| b &&& m := by
  ext k
  simp [Bool.and_or_distrib_right]

theorem or_and_eq_zero {a b m : Byte} (ha : a &&& m = 0) (hb : b &&& m = 0) : (a ||| b) &&& m = 0 := by
  rw [or_and_distrib, ha, hb]
  exact BitVec.or_zero

theorem and_and_eq_zero {a m : Byte} (ha : a &&& m = 0) (x : Byte) : a &&& x &&& m = 0 := by
  rw [BitVec.and_assoc, BitVec.and_comm x m, ← BitVec.and_assoc, ha]
  exact BitVec.zero_and

theorem bit_of_and_eq_zero {a m : Byte} (h : a &&& m = 0) {k : Nat} (hk : bit m k = true := by decide) : bit a k = false := by
  have hbit : bit (a &&& m) k = false := by
    rw [h]
    exact BitVec.getLsbD_zero
  rwa [bit_and, hk, Bool.and_true] at hbit

/-- A flag that stands outside a mask. -/
theorem flagBit_and_eq_zero {k : Nat} {m : Byte} (on : Bool) (h : flagBit k true &&& m = 0 := by decide) :
    flagBit k on &&& m = 0 := by
  cases on with
  | false => exact BitVec.zero_and
  | true => exact h

/-! The ports. -/

theorem Ports.legal_iff (p : Ports) : p.legal = true ↔ p.portd &&& 0xC0 = 0 ∧ p.ddrd &&& 0xC0 = 0 ∧ p.strbPulse ≤ 2 := by
  simp [Ports.legal, and_assoc]

section
variable {p : Ports} (h : p.legal = true)
include h

theorem Ports.legal_strobe : p.strobe.legal = true := by
  obtain ⟨hd, hr, -⟩ := p.legal_iff.mp h
  unfold Ports.strobe
  split <;> exact (Ports.legal_iff _).mpr ⟨hd, hr, by simp⟩

theorem Ports.legal_clearStaf : p.clearStaf.legal = true := by
  unfold Ports.clearStaf
  split <;> exact h

end

/-! The timer. -/

theorem Timer.legal_iff (t : Timer) : t.legal = true ↔
    t.oc1m &&& 0x07 = 0 ∧ t.oc1d &&& 0x07 = 0 ∧ t.tmsk2 &&& 0x0C = 0 ∧ t.tflg2 &&& 0x0F = 0 ∧ t.ocPins &&& 0x07 = 0 ∧
      t.prescale < timerPrescaler t.tmsk2 := by
  simp [Timer.legal, and_assoc]

theorem timerPrescaler_pos (b : Byte) : 0 < timerPrescaler b := by
  unfold timerPrescaler
  split <;> decide

theorem field2_zero_eq_mod (b : Byte) : field2 b 0 = b.toNat % 4 := congrArg (· % 4) (Nat.div_one b.toNat)

theorem field2_zero (b : Byte) : field2 b 0 = (b &&& 0x03).toNat :=
  (field2_zero_eq_mod b).trans (Nat.and_two_pow_sub_one_eq_mod b.toNat 2).symm

/-- The rate of TCNT depends on PR alone (R63). -/
theorem timerPrescaler_congr {a b : Byte} (h : a &&& 0x03 = b &&& 0x03) : timerPrescaler a = timerPrescaler b := by
  unfold timerPrescaler
  rw [field2_zero, field2_zero, h]

section
variable {t : Timer} (h : t.legal = true)
include h

/-- Flags of TFLG2 that exist may set (R64). -/
theorem Timer.legal_tflg2 {f : Byte} (hf : f &&& 0x0F = 0) : { t with tflg2 := t.tflg2 ||| f }.legal = true := by
  obtain ⟨hm, hd, hmask, hflags, hpins, hphase⟩ := t.legal_iff.mp h
  exact (Timer.legal_iff _).mpr ⟨hm, hd, hmask, or_and_eq_zero hflags hf, hpins, hphase⟩

/-- PA7 to PA3 alone have a latch (R95). -/
theorem Timer.legal_ocPins {pins : Byte} (hpins : pins &&& 0x07 = 0) : { t with ocPins := pins }.legal = true := by
  obtain ⟨hm, hd, hmask, hflags, -, hphase⟩ := t.legal_iff.mp h
  exact (Timer.legal_iff _).mpr ⟨hm, hd, hmask, hflags, hpins, hphase⟩

theorem Timer.legal_countPacnt (k : Nat) : (countPacnt k t).legal = true := by
  have hcounted : { t with pacnt := t.pacnt + BitVec.ofNat 8 k }.legal = true := h
  exact Timer.legal_tflg2 hcounted (flagBit_and_eq_zero _)

end

/-! The SPI. -/

theorem Spi.legal_iff (p : Spi) : p.legal = true ↔
    p.spsr &&& 0x2F = 0 ∧ (p.slaveBusy = true → bit p.spcr 6 = true ∧ bit p.spcr 4 = false) ∧
      ∀ k, p.left = some k → (bit p.spcr 6 = true ∧ bit p.spcr 4 = true) ∧ 0 < k ∧ k ≤ 256 := by
  unfold Spi.legal
  cases p.left with
  | none => cases p.slaveBusy <;> simp
  | some k => cases p.slaveBusy <;> simp [and_assoc]

theorem spiTransferCycles_range (b : Byte) : 0 < spiTransferCycles b ∧ spiTransferCycles b ≤ 256 := by
  unfold spiTransferCycles
  split <;> decide

theorem Spi.writeData_slaveBusy (p : Spi) (v : Byte) : (p.writeData v).slaveBusy = p.slaveBusy := by
  unfold Spi.writeData
  simp only
  split <;> rfl

section
variable {p : Spi} (h : p.legal = true)
include h

theorem Spi.legal_clearArmed (group : Byte) : (p.clearArmed group).legal = true := by
  obtain ⟨hflags, hslave, hmaster⟩ := p.legal_iff.mp h
  exact (Spi.legal_iff _).mpr ⟨and_and_eq_zero hflags _, hslave, hmaster⟩

theorem Spi.legal_receive (data : Byte) : (p.receive data).legal = true := by
  obtain ⟨hflags, -, -⟩ := p.legal_iff.mp h
  exact (Spi.legal_iff _).mpr ⟨or_and_eq_zero hflags (by decide), nofun, nofun⟩

theorem Spi.legal_writeData (v : Byte) : (p.writeData v).legal = true := by
  obtain ⟨hflags, hslave, hmaster⟩ := (Spi.legal_iff _).mp (Spi.legal_clearArmed h 0xC0)
  unfold Spi.writeData
  simp only
  split
  · exact (Spi.legal_iff _).mpr ⟨or_and_eq_zero hflags (by decide), hslave, hmaster⟩
  · refine (Spi.legal_iff _).mpr ⟨hflags, hslave, fun k hk => ?_⟩
    simp only [Option.ite_none_right_eq_some, Option.some.injEq, Bool.and_eq_true] at hk
    obtain ⟨henabled, rfl⟩ := hk
    exact ⟨henabled, spiTransferCycles_range _⟩

theorem Spi.legal_writeControl (v : Byte) : (p.writeControl v).legal = true := by
  obtain ⟨hflags, hslave, hmaster⟩ := (Spi.legal_iff _).mp (Spi.legal_clearArmed h 0x10)
  refine (Spi.legal_iff _).mpr ⟨hflags, fun hbusy => ?_, fun k hk => ?_⟩
  · simp only [Spi.writeControl, Bool.and_eq_true, Bool.not_eq_true'] at hbusy ⊢
    exact ⟨hbusy.1.2, hbusy.2⟩
  · simp only [Spi.writeControl, Option.ite_none_right_eq_some, Bool.and_eq_true] at hk ⊢
    exact ⟨hk.1, (hmaster k hk.2).2⟩

end

/-! The SCI. -/

theorem Sci.legal_iff (d : Device) (p : Sci) : p.legal d = true ↔
    p.sccr1 &&& 0x27 = 0 ∧ p.scsr &&& 0x01 = 0 ∧ (isE20 d = true ∨ bit p.baud 6 = false) := by
  simp [Sci.legal, and_assoc]

section
variable {d : Device} {p : Sci} (h : p.legal d = true)
include h

/-- Flags of SCSR that exist may set (R73). -/
theorem Sci.legal_scsr {f : Byte} (hf : f &&& 0x01 = 0) : ({ p with scsr := p.scsr ||| f } : Sci).legal d = true := by
  obtain ⟨hcontrol, hflags, hbaud⟩ := (p.legal_iff d).mp h
  exact (Sci.legal_iff d _).mpr ⟨hcontrol, or_and_eq_zero hflags hf, hbaud⟩

theorem Sci.legal_clearArmed (group : Byte) : (p.clearArmed group).legal d = true := by
  obtain ⟨hcontrol, hflags, hbaud⟩ := (p.legal_iff d).mp h
  exact (Sci.legal_iff d _).mpr ⟨hcontrol, and_and_eq_zero hflags _, hbaud⟩

theorem Sci.legal_deliver (noise framing : Bool) : (p.deliver noise framing).legal d = true := by
  obtain ⟨hcontrol, hflags, hbaud⟩ := (p.legal_iff d).mp h
  unfold Sci.deliver
  split
  · exact Sci.legal_scsr h (by decide)
  · refine (Sci.legal_iff d _).mpr ⟨?_, ?_, hbaud⟩
    · simp only
      split
      · exact or_and_eq_zero (and_and_eq_zero hcontrol _) (and_and_of_disjoint (by decide) _)
      · exact hcontrol
    · exact or_and_eq_zero (or_and_eq_zero (or_and_eq_zero hflags (by decide)) (flagBit_and_eq_zero _)) (flagBit_and_eq_zero _)

end

/-! The A/D converter. -/

theorem Adc.legal_iff (p : Adc) : p.legal = true ↔ p.adctl &&& 0x40 = 0 := by simp [Adc.legal]

theorem Adc.legal_convert {p : Adc} (h : p.legal = true) (data : Byte) : (p.convert data).legal = true := by
  unfold Adc.convert
  split
  · exact h
  · exact h
  · exact h
  · exact h
  · exact (Adc.legal_iff _).mpr (or_and_eq_zero ((Adc.legal_iff p).mp h) (by decide))

theorem Adc.powered_of_power {p : Adc} {powered : Bool} (h : (p.power powered).next.isSome = true) : powered = true := by
  cases powered with
  | true => rfl
  | false => cases h

theorem Adc.powered_of_start {p : Adc} {v : Byte} {powered : Bool} (h : (p.start v powered).next.isSome = true) :
    powered = true := by
  cases powered with
  | true => rfl
  | false => cases h

/-! The system registers. -/

theorem Sys.legal_iff (d : Device) (g : Sys) : g.legal d = true ↔
    g.bprot &&& 0xE0 = 0 ∧ g.eprog &&& 0x7F = 0 ∧ (d = .mc68hc711e20 ∨ g.eprog = 0) ∧ g.option &&& 0x04 = 0 ∧
      g.pprog &&& 0x23 = 0 ∧ g.test1 &&& 0xF7 = 0 ∧ (d = .mc68hc811e2 ∨ g.config &&& 0xF0 = 0) ∧ bit g.config 3 = true ∧
      g.copCount ≤ g.cycles := by
  simp [Sys.legal, and_assoc]

end Sys2Proof.Machine
end

section
/-! PROOFS. The invariant of the whole machine but for the run state: reads, accepted stores, time and the moves of the outside world
keep it. -/

namespace Sys2Proof.Machine

/-- The memories, the devices and the pins of a legal state. -/
structure Sound (s : State) : Prop where
  mem : s.mem.wf = true
  ram : Memory.below (ramSize s.params.device) s.mem.ram = true
  ext : Memory.below 65536 s.mem.ext = true
  ports : s.io.ports.legal = true
  timer : s.io.timer.legal = true
  spi : s.io.spi.legal = true
  /-- A slave's transfer runs only while SS is low (R473). -/
  slave : s.io.spi.slaveBusy = true → bit s.pins.portD 5 = false
  sci : s.io.sci.legal s.params.device = true
  adc : s.io.adc.legal = true
  /-- A conversion sequence runs only while ADPU = 1 (R475). -/
  sequence : s.io.adc.next.isSome = true → bit s.io.sys.option 7 = true
  sys : s.io.sys.legal s.params.device = true

theorem legal_iff (s : State) : s.legal = true ↔ s.cpu.run.legal = true ∧ Sound s := by
  have hslave : (!s.io.spi.slaveBusy || !bit s.pins.portD 5) = true ↔
      (s.io.spi.slaveBusy = true → bit s.pins.portD 5 = false) := by
    cases s.io.spi.slaveBusy <;> simp
  have hsequence : (s.io.adc.next.isNone || bit s.io.sys.option 7) = true ↔
      (s.io.adc.next.isSome = true → bit s.io.sys.option 7 = true) := by
    cases s.io.adc.next <;> simp
  simp only [State.legal, Bool.and_eq_true, hslave, hsequence]
  constructor
  · rintro ⟨⟨⟨⟨⟨⟨⟨⟨⟨⟨⟨hrun, hmem⟩, hram⟩, hext⟩, hports⟩, htimer⟩, hspi⟩, hslave⟩, hsci⟩, hadc⟩, hsequence⟩, hsys⟩
    exact ⟨hrun, hmem, hram, hext, hports, htimer, hspi, hslave, hsci, hadc, hsequence, hsys⟩
  · rintro ⟨hrun, hmem, hram, hext, hports, htimer, hspi, hslave, hsci, hadc, hsequence, hsys⟩
    exact ⟨⟨⟨⟨⟨⟨⟨⟨⟨⟨⟨hrun, hmem⟩, hram⟩, hext⟩, hports⟩, htimer⟩, hspi⟩, hslave⟩, hsci⟩, hadc⟩, hsequence⟩, hsys⟩

/-! One device replaced. -/

section
variable {s : State} (h : Sound s)
include h

theorem Sound.withCpu (c : Cpu) : Sound (s.withCpu c) := { h with }

theorem Sound.drawn (n : Nat) : Sound (s.drawn n) := { h with }

theorem Sound.setPorts {p : Ports} (hp : p.legal = true) : Sound (s.setPorts p) := { h with ports := hp }

theorem Sound.setTimer {t : Timer} (ht : t.legal = true) : Sound (s.setTimer t) := { h with timer := ht }

theorem Sound.setSpi {p : Spi} (hp : p.legal = true) (hslave : p.slaveBusy = true → s.io.spi.slaveBusy = true) :
    Sound (s.setSpi p) := { h with spi := hp, slave := fun hbusy => h.slave (hslave hbusy) }

theorem Sound.setSci {p : Sci} (hp : p.legal s.params.device = true) : Sound (s.setSci p) := { h with sci := hp }

theorem Sound.setSys {g : Sys} (hg : g.legal s.params.device = true) (hoption : g.option = s.io.sys.option := by rfl) :
    Sound (s.setSys g) :=
  { h with sys := hg, sequence := fun hnext => (congrArg (bit · 7) hoption).trans (h.sequence hnext) }

theorem Sound.setPins {p : Pins} (hp : bit p.portD 5 = true → bit s.pins.portD 5 = true := by exact id) :
    Sound (s.setPins p) :=
  { h with slave := fun hbusy => Bool.eq_false_iff.mpr fun hd => Bool.eq_false_iff.mp (h.slave hbusy) (hp hd) }

end

/-! Time (R511). -/

/-- The COP counts, and what else it does is to make a reset due. -/
theorem advanceCop_eq (n : Nat) (s : State) : ∃ r k, advanceCop n s =
    (s.setSys { s.io.sys with copCount := s.io.sys.copCount + n, pendingReset := r }).drawn k := by
  simp only [advanceCop]
  split
  · exact ⟨s.io.sys.pendingReset, 0, rfl⟩
  · split
    · exact ⟨(s.raiseReset .cop).io.sys.pendingReset, 0, rfl⟩
    · split
      · exact ⟨(s.raiseReset .cop).io.sys.pendingReset, 1, rfl⟩
      · exact ⟨s.io.sys.pendingReset, 1, rfl⟩

section
variable {s : State} (h : Sound s)
include h

theorem Sound.driveOcPins (w : OcTimes) : Sound (driveOcPins w s) :=
  (h.setTimer (Timer.legal_ocPins h.timer (or_and_eq_zero (or_and_eq_zero (or_and_eq_zero (or_and_eq_zero
    (flagBit_and_eq_zero _) (flagBit_and_eq_zero _)) (flagBit_and_eq_zero _)) (flagBit_and_eq_zero _))
    (flagBit_and_eq_zero _)))).drawn 8

theorem Sound.advanceTimer (n : Nat) : Sound (advanceTimer n s) := by
  obtain ⟨hm, hd, hmask, hflags, hpins, -⟩ := s.io.timer.legal_iff.mp h.timer
  have hcounted {t : Word} {f : Byte} (b : Bool) : Sound (s.setTimer { s.io.timer with
      tcnt := t
      prescale := (s.io.timer.prescale + n) % timerPrescaler s.io.timer.tmsk2
      tflg1 := f
      tflg2 := s.io.timer.tflg2 ||| flagBit 7 b }) :=
    h.setTimer ((Timer.legal_iff _).mpr ⟨hm, hd, hmask, or_and_eq_zero hflags (flagBit_and_eq_zero _), hpins,
      Nat.mod_lt _ (timerPrescaler_pos _)⟩)
  unfold Sys2Proof.Machine.advanceTimer
  simp only
  split
  · exact hcounted _
  · exact (hcounted _).driveOcPins _

theorem Sound.advanceRti (n : Nat) : Sound (advanceRti n s) :=
  h.setTimer (Timer.legal_tflg2 h.timer (flagBit_and_eq_zero _))

theorem Sound.advancePulse (n : Nat) : Sound (advancePulse n s) := by
  unfold Sys2Proof.Machine.advancePulse
  simp only
  split
  · exact h.setTimer (Timer.legal_countPacnt h.timer _)
  · exact h

/-- A transfer that ends leaves no slave's in progress. -/
theorem Sound.receive (data : Byte) : Sound (s.setSpi (s.io.spi.receive data)) :=
  h.setSpi (Spi.legal_receive h.spi data) nofun

theorem Sound.advanceSpi (n : Nat) : Sound (advanceSpi n s) := by
  unfold Sys2Proof.Machine.advanceSpi
  simp only
  split
  · exact h
  · next k hk =>
    split
    · obtain ⟨hflags, hslave, hmaster⟩ := (Spi.legal_iff _).mp h.spi
      refine h.setSpi ((Spi.legal_iff _).mpr ⟨hflags, hslave, fun j hj => ⟨(hmaster k hk).1, ?_⟩⟩) id
      obtain rfl := Option.some.inj hj
      have hrange := (hmaster k hk).2
      omega
    · exact h.receive _

theorem Sound.advanceSci (n : Nat) : Sound (advanceSci n s) := by
  unfold Sys2Proof.Machine.advanceSci
  simp only
  split
  · exact h
  · split
    · exact h.setSci h.sci
    · exact h.setSci (Sci.legal_scsr h.sci (flagBit_and_eq_zero _))

theorem Sound.advanceStrobe (n : Nat) : Sound (advanceStrobe n s) := by
  obtain ⟨hd, hr, hpulse⟩ := s.io.ports.legal_iff.mp h.ports
  unfold Sys2Proof.Machine.advanceStrobe
  simp only
  split
  · exact h
  · split
    · exact h.setPorts ((Ports.legal_iff _).mpr ⟨hd, hr, Nat.le_trans (Nat.sub_le _ _) hpulse⟩)
    · exact h.setPorts ((Ports.legal_iff _).mpr ⟨hd, hr, Nat.zero_le 2⟩)

/-- The count of the COP does not pass that of the cycles since reset. -/
theorem Sound.advanceCop_countCycles (n : Nat) : Sound (countCycles n (advanceCop n s)) := by
  obtain ⟨r, k, hcop⟩ := advanceCop_eq n s
  obtain ⟨hbprot, heprog, hdevice, hoption, hpprog, htest, hee, hnosec, hcount⟩ := (Sys.legal_iff _ _).mp h.sys
  rw [hcop]
  exact (h.setSys (g := { s.io.sys with
    copCount := s.io.sys.copCount + n, pendingReset := r, cycles := s.io.sys.cycles + n })
    ((Sys.legal_iff _ _).mpr ⟨hbprot, heprog, hdevice, hoption, hpprog, htest, hee, hnosec, Nat.add_le_add_right hcount n⟩)).drawn k

end

theorem Sound.advance {s : State} (h : Sound s) (n : Nat) : Sound (advance n s) :=
  ((((((h.advanceTimer n).advanceRti n).advancePulse n).advanceSpi n).advanceSci n).advanceStrobe n).advanceCop_countCycles n

/-! The outside world's moves (D27). -/

theorem Sound.whenClocked {f : State → State} (hf : ∀ {s}, Sound s → Sound (f s)) {s : State} (h : Sound s) :
    Sound (whenClocked f s) := by
  unfold Sys2Proof.Machine.whenClocked
  split
  · exact hf h
  · exact h

section
variable {s : State} (h : Sound s)
include h

theorem Sound.raiseReset (k : ResetKind) : Sound (s.raiseReset k) := h.setSys h.sys

theorem Sound.clockFails : Sound (clockFails s) := by
  unfold Sys2Proof.Machine.clockFails
  split
  · exact h.raiseReset _
  · exact h

theorem Sound.straEdge (old new : Bool) : Sound (straEdge old new s) := by
  unfold Sys2Proof.Machine.straEdge
  simp only
  split
  · exact h.setPorts h.ports
  · exact h

theorem Sound.captureEdges (old new : Byte) : Sound (captureEdges old new s) := h.setTimer h.timer

theorem Sound.pulseEdge (old new : Bool) : Sound (pulseEdge old new s) := by
  unfold Sys2Proof.Machine.pulseEdge
  simp only
  split
  · exact h
  · split
    · exact (h.setTimer (Timer.legal_tflg2 h.timer (flagBit_and_eq_zero _))).drawn 1
    · split
      · exact h.setTimer (Timer.legal_countPacnt (Timer.legal_tflg2 h.timer (by decide)) 1)
      · exact h

theorem Sound.spiReleased : Sound (spiReleased s) := by
  obtain ⟨hflags, -, hmaster⟩ := (Spi.legal_iff _).mp h.spi
  exact h.setSpi ((Spi.legal_iff _).mpr ⟨hflags, nofun, hmaster⟩) nofun

theorem Sound.spiSelected : Sound (spiSelected s) := by
  obtain ⟨hflags, hslave, -⟩ := (Spi.legal_iff _).mp h.spi
  unfold Sys2Proof.Machine.spiSelected
  simp only
  split
  · exact h.setSpi ((Spi.legal_iff _).mpr ⟨or_and_eq_zero hflags (by decide), hslave, nofun⟩) id
  · exact h

/-- A rising SS ends a slave's transfer, so that SS is low while one runs (R473). -/
theorem Sound.portDLevels (v : Byte) : Sound (portDLevels v s) := by
  obtain ⟨hflags, -, hmaster⟩ := (Spi.legal_iff _).mp h.spi
  unfold Sys2Proof.Machine.portDLevels
  simp only
  split
  · exact { h with spi := (Spi.legal_iff _).mpr ⟨hflags, nofun, hmaster⟩, slave := nofun }
  · next hrises =>
    have hpins : Sound (s.setPins { s.pins with portD := v }) := by
      refine h.setPins fun hv => ?_
      cases hold : bit s.pins.portD 5 with
      | true => rfl
      | false => exact absurd (by rw [hold]; exact hv) hrises
    split
    · exact Sound.whenClocked Sound.spiSelected hpins
    · exact hpins

theorem Sound.spiSlaveStart : Sound (spiSlaveStart s) := by
  obtain ⟨hflags, hslave, hmaster⟩ := (Spi.legal_iff _).mp h.spi
  unfold Sys2Proof.Machine.spiSlaveStart
  simp only
  split
  · next hstart =>
    obtain ⟨henabled, hmode, hss⟩ := hstart
    exact { h with
      spi := (Spi.legal_iff _).mpr ⟨hflags, fun _ => ⟨henabled, by simpa using hmode⟩, hmaster⟩
      slave := fun _ => by simpa using hss }
  · exact h

theorem Sound.spiClocked (data : Byte) : Sound (spiClocked data s) := by
  unfold Sys2Proof.Machine.spiClocked
  split
  · exact h.receive data
  · exact h

theorem Sound.sciCharacter (d : BitVec 9) (noise framing : Bool) : Sound (sciCharacter d noise framing s) := by
  unfold Sys2Proof.Machine.sciCharacter
  simp only
  split
  · exact h.setSci h.sci
  · split
    · exact h.setSci h.sci
    · refine h.setSci (Sci.legal_deliver ?_ noise framing)
      exact h.sci

theorem Sound.sciIdleLine : Sound (sciIdleLine s) := by
  unfold Sys2Proof.Machine.sciIdleLine
  simp only
  split
  · exact h
  · split
    · split <;> exact h.setSci h.sci
    · exact h.setSci (Sci.legal_scsr h.sci (by decide))

theorem Sound.sciShifterReady : Sound (sciShifterReady s) := by
  have hset {p : Sci} (hp : p.legal s.params.device = true) :
      Sound ((if (sciPrescaler s.io.sci.baud).isNone then s.drawn 1 else s).setSci p) := by
    split
    · exact (h.drawn 1).setSci hp
    · exact h.setSci hp
  unfold Sys2Proof.Machine.sciShifterReady
  simp only
  split
  · exact h
  · split
    · exact hset (Sci.legal_scsr h.sci (by decide))
    · split
      · exact hset h.sci
      · exact h

theorem Sound.adcResult (data : Byte) : Sound (adcResult data s) := by
  unfold Sys2Proof.Machine.adcResult
  split
  · next hpower => exact { h with adc := Adc.legal_convert h.adc data, sequence := fun _ => hpower }
  · exact h

end

theorem Sound.applyInput {s : State} (h : Sound s) (i : Input) : Sound (applyInput s i) := by
  cases i with
  | resetPin => exact h.raiseReset _
  | clockFailure => exact h.clockFails
  | modePins a b => exact h.setPins
  | irqPin l => exact (h.setPins (p := { s.pins with irq := l })).setSys h.sys
  | xirqPin l => exact h.setPins
  | straPin l => exact .whenClocked (fun k => k.straEdge _ _) h.setPins
  | portA v => exact .whenClocked (fun k => (k.captureEdges _ _).pulseEdge _ _) h.setPins
  | portC v => exact h.setPins
  | portD v => exact h.portDLevels v
  | portE v => exact h.setPins
  | sciCharacter d noise framing => exact .whenClocked (fun k => k.sciCharacter d noise framing) h
  | sciIdleLine => exact .whenClocked Sound.sciIdleLine h
  | sciShifterReady => exact .whenClocked Sound.sciShifterReady h
  | spiIncoming d => exact h.setPins
  | spiSlaveStart => exact .whenClocked Sound.spiSlaveStart h
  | spiClocked d => exact .whenClocked (fun k => k.spiClocked d) h
  | adcResult d => exact .whenClocked (fun k => k.adcResult d) h

theorem Sound.applyInputs (moves : List Input) : ∀ {s : State}, Sound s → Sound (moves.foldl Sys2Proof.Machine.applyInput s) := by
  induction moves with
  | nil => exact id
  | cons i moves ih => exact fun h => ih (h.applyInput i)

theorem Sound.takeInputs {s : State} (h : Sound s) : Sound (takeInputs s) := by
  unfold Sys2Proof.Machine.takeInputs
  split
  · exact h
  · next moves later _ => exact Sound.applyInputs moves (s := { s with inputs := later }) { h with }

/-! Reads (R151). -/

theorem Sound.readRegister {s : State} (h : Sound s) (r : IoReg) : Sound (readRegister r s).2 := by
  cases r
  case portc =>
    simp only [Sys2Proof.Machine.readRegister, readPortC]
    split
    · exact h.drawn 1
    · exact h
  case pioc =>
    simp only [Sys2Proof.Machine.readRegister, readPioc]
    split
    · exact h.setPorts h.ports
    · exact h
  case portcl =>
    simp only [Sys2Proof.Machine.readRegister, readPortCl]
    split
    · exact h
    · simp only
      split
      · exact h.setPorts (Ports.legal_strobe (Ports.legal_clearStaf h.ports))
      · exact h.setPorts (Ports.legal_clearStaf h.ports)
  case spsr => exact h.setSpi h.spi id
  case spdr => exact h.setSpi (Spi.legal_clearArmed h.spi _) id
  case scsr => exact h.setSci h.sci
  case scdr => exact h.setSci (Sci.legal_clearArmed h.sci _)
  case reserved | coprst => exact h.drawn 1
  case eprog | test1 =>
    simp only [Sys2Proof.Machine.readRegister]
    split
    · exact h
    · exact h.drawn 1
  all_goals exact h

theorem Sound.readByte {s : State} (h : Sound s) (a : Word) : Sound (readByte s a).2 := by
  unfold Sys2Proof.Machine.readByte
  cases resolve s a with
  | register off => exact h.readRegister _
  | ext n k =>
    cases k with
    | device => exact h.drawn 1
    | ram | rom => exact h
  | nothing => exact h.drawn 1
  | ram _ | bootRom _ | eeprom _ | rom _ => exact h

/-! Stores (R40, R137, R150). -/

section
variable {s : State} (h : Sound s)
include h

/-- The phase of the prescaler stays in range, since a changed rate restarts it (R461). -/
theorem Sound.writeTmsk2 (v : Byte) : Sound (writeTmsk2 v s) := by
  obtain ⟨hm, hd, hmask, hflags, hpins, hphase⟩ := s.io.timer.legal_iff.mp h.timer
  have htimer {pr : Byte} (hpr : pr &&& 0x03 = pr) : ({ s.io.timer with
      tmsk2 := (v &&& 0xF0) ||| pr
      prescale := if pr = s.io.timer.tmsk2 &&& 0x03 then s.io.timer.prescale else 0 } : Timer).legal = true := by
    have hlow : pr &&& 0x0C = 0 := hpr ▸ and_and_of_disjoint (by decide) pr
    refine (Timer.legal_iff _).mpr ⟨hm, hd, or_and_eq_zero (and_and_of_disjoint (by decide) v) hlow, hflags, hpins, ?_⟩
    simp only
    split
    · next hsame =>
      have hrate : ((v &&& 0xF0) ||| pr) &&& 0x03 = s.io.timer.tmsk2 &&& 0x03 := by
        rw [or_and_distrib, and_and_of_disjoint (by decide), hpr, hsame]
        exact BitVec.zero_or
      rw [timerPrescaler_congr hrate]
      exact hphase
    · exact timerPrescaler_pos _
  refine Sound.setSys (h.setTimer (htimer ?_)) h.sys
  split <;> exact BitVec.and_assoc _ _ _

/-- No programming latch comes up by an accepted write (R78, R150). -/
theorem Sound.writeEprog {v : Byte} (haccepted : registerRefusal .eprog v s = none) : Sound (writeEprog v s) := by
  obtain ⟨hbprot, heprog, -, hoption, hpprog, htest, hee, hnosec, hcount⟩ := (Sys.legal_iff _ _).mp h.sys
  have hpgm : bit s.io.sys.eprog 0 = false := bit_of_and_eq_zero heprog
  have helat : bit s.io.sys.eprog 5 = false := bit_of_and_eq_zero heprog
  unfold Sys2Proof.Machine.writeEprog
  simp only
  split
  · next hdevice =>
    have hv : bit v 5 = false := by
      simp only [registerRefusal, if_pos hdevice] at haccepted
      split at haccepted
      · cases haccepted
      · next hclear => simpa [hpgm, helat] using hclear
    refine h.setSys ((Sys.legal_iff _ _).mpr ⟨hbprot, ?_, .inl hdevice, hoption, hpprog, htest, hee, hnosec, hcount⟩)
    simp only [hpgm, helat, hv, Bool.false_eq_true, if_false]
    exact or_and_eq_zero (or_and_eq_zero (flagBit_and_eq_zero _) BitVec.zero_and) BitVec.zero_and
  · exact h

theorem Sound.writeOption (v : Byte) : Sound (writeOption v s) := by
  obtain ⟨hbprot, heprog, hdevice, -, hpprog, htest, hee, hnosec, hcount⟩ := (Sys.legal_iff _ _).mp h.sys
  refine { h with
    sys := (Sys.legal_iff _ _).mpr
      ⟨hbprot, heprog, hdevice, and_and_of_disjoint (by decide) _, hpprog, htest, hee, hnosec, hcount⟩
    sequence := fun hnext => ?_ }
  have hpower : bit v 7 = true := Adc.powered_of_power hnext
  show bit (merge _ s.io.sys.option v &&& 0xFB) 7 = true
  have hmask : bit (if s.protectedOpen s.io.sys.optionWritten then (0xFB : Byte) else 0xC8) 7 = true := by
    split <;> decide
  rw [bit_and, bit_merge _ _ _ (by decide), hmask, hpower, if_pos rfl]
  decide

theorem Sound.writeBprot (v : Byte) : Sound (writeBprot v s) := by
  obtain ⟨-, heprog, hdevice, hoption, hpprog, htest, hee, hnosec, hcount⟩ := (Sys.legal_iff _ _).mp h.sys
  refine h.setSys ((Sys.legal_iff _ _).mpr ⟨?_, heprog, hdevice, hoption, hpprog, htest, hee, hnosec, hcount⟩)
  simp only
  split <;> exact and_and_of_disjoint (by decide) _

theorem Sound.writeCoprst (v : Byte) : Sound (writeCoprst v s) := by
  obtain ⟨hbprot, heprog, hdevice, hoption, hpprog, htest, hee, hnosec, -⟩ := (Sys.legal_iff _ _).mp h.sys
  unfold Sys2Proof.Machine.writeCoprst
  simp only
  split
  · exact h.setSys h.sys
  · split
    · exact h.setSys ((Sys.legal_iff _ _).mpr
        ⟨hbprot, heprog, hdevice, hoption, hpprog, htest, hee, hnosec, Nat.zero_le _⟩)
    · exact h

theorem Sound.writeRegister {r : IoReg} {v : Byte} (haccepted : registerRefusal r v s = none) : Sound (writeRegister r v s) := by
  obtain ⟨hportd, hddrd, hpulse⟩ := s.io.ports.legal_iff.mp h.ports
  obtain ⟨hm, hd, hmask, hflags, hpins, hphase⟩ := s.io.timer.legal_iff.mp h.timer
  obtain ⟨hcontrol, hscsr, hbaud⟩ := (Sci.legal_iff _ _).mp h.sci
  cases r
  case portb =>
    have hp : ({ s.io.ports with portb := v } : Ports).legal = true := h.ports
    simp only [Sys2Proof.Machine.writeRegister, writePortB]
    split
    · exact h.setPorts (Ports.legal_strobe hp)
    · exact h.setPorts hp
  case portcl =>
    have hp : ({ s.io.ports with portcl := v } : Ports).legal = true := h.ports
    simp only [Sys2Proof.Machine.writeRegister, writePortCl]
    split
    · split
      · exact h.setPorts (Ports.legal_strobe (Ports.legal_clearStaf hp))
      · exact h.setPorts (Ports.legal_clearStaf hp)
    · exact h.setPorts hp
  case porta | pioc | portc | ddrc => exact h.setPorts h.ports
  case portd => exact h.setPorts ((Ports.legal_iff _).mpr ⟨and_and_of_disjoint (by decide) v, hddrd, hpulse⟩)
  case ddrd => exact h.setPorts ((Ports.legal_iff _).mpr ⟨hportd, and_and_of_disjoint (by decide) v, hpulse⟩)
  case cforc =>
    simp only [Sys2Proof.Machine.writeRegister, writeCforc]
    split
    · exact h
    · exact h.driveOcPins _
  case oc1m =>
    exact h.setTimer ((Timer.legal_iff _).mpr ⟨and_and_of_disjoint (by decide) v, hd, hmask, hflags, hpins, hphase⟩)
  case oc1d =>
    exact h.setTimer ((Timer.legal_iff _).mpr ⟨hm, and_and_of_disjoint (by decide) v, hmask, hflags, hpins, hphase⟩)
  case tflg2 =>
    exact h.setTimer ((Timer.legal_iff _).mpr ⟨hm, hd, hmask, and_and_of_disjoint (by decide) _, hpins, hphase⟩)
  case toc1Hi | toc1Lo | toc2Hi | toc2Lo | toc3Hi | toc3Lo | toc4Hi | toc4Lo | ti4o5Hi | ti4o5Lo | tctl1 | tctl2 | tmsk1 |
      tflg1 | pactl | pacnt =>
    exact h.setTimer h.timer
  case tmsk2 => exact h.writeTmsk2 v
  case spcr => exact h.setSpi (Spi.legal_writeControl h.spi v) fun hbusy => (Bool.and_eq_true_iff.mp (Bool.and_eq_true_iff.mp hbusy).1).1
  case spdr => exact h.setSpi (Spi.legal_writeData h.spi v) fun hbusy => (Spi.writeData_slaveBusy _ v).symm.trans hbusy
  case baud =>
    refine h.setSci ((Sci.legal_iff _ _).mpr ⟨hcontrol, hscsr, ?_⟩)
    cases he20 : isE20 s.params.device with
    | true => exact .inl rfl
    | false =>
      refine .inr ?_
      show bit (v &&& baudMask _) 6 = false
      rw [bit_and, baudMask, he20]
      exact Bool.and_false _
  case sccr1 => exact h.setSci ((Sci.legal_iff _ _).mpr ⟨and_and_of_disjoint (by decide) v, hscsr, hbaud⟩)
  case sccr2 => exact h.setSci (Sci.legal_scsr (p := { s.io.sci with sccr2 := v }) h.sci (flagBit_and_eq_zero _))
  case scdr => exact h.setSci (Sci.legal_clearArmed h.sci 0xC0)
  case adctl =>
    exact { h with
      adc := (Adc.legal_iff _).mpr (and_and_of_disjoint (by decide) v)
      sequence := Adc.powered_of_start }
  case bprot => exact h.writeBprot v
  case eprog => exact h.writeEprog haccepted
  case option => exact h.writeOption v
  case coprst => exact h.writeCoprst v
  case pprog =>
    obtain ⟨hbprot, heprog, hdevice, hoption, -, htest, hee, hnosec, hcount⟩ := (Sys.legal_iff _ _).mp h.sys
    refine h.setSys ((Sys.legal_iff _ _).mpr ⟨hbprot, heprog, hdevice, hoption, ?_, htest, hee, hnosec, hcount⟩)
    simpa [registerRefusal] using haccepted
  case hprio | init => exact h.setSys h.sys
  all_goals exact h

end
theorem Sound.store {s : State} (h : Sound s) {a : Word} {v : Byte} (haccepted : storeRefusal s a v = none) :
    Sound (store s a v) := by
  unfold Sys2Proof.Machine.store
  unfold storeRefusal at haccepted
  have hmem : (Sys2Proof.Machine.store s a v).mem.wf = true := store_mem_wf h.mem a v
  unfold Sys2Proof.Machine.store at hmem
  cases hr : resolve s a with
  | register off =>
    rw [hr] at haccepted
    exact h.writeRegister haccepted
  | ram k =>
    rw [hr] at hmem
    exact { h with mem := hmem, ram := Memory.write_below v h.ram (resolve_ram hr).2 }
  | ext n k =>
    cases k with
    | ram =>
      rw [hr] at hmem
      exact { h with mem := hmem, ext := Memory.write_below v h.ext (resolve_ext hr ▸ a.isLt) }
    | rom | device => exact h
  | bootRom _ | eeprom _ | rom _ | nothing => exact h

theorem Evolves.sound {setX clearI : Bool} {s t : State} (h : Evolves setX clearI s t) (hs : Sound s) : Sound t := by
  induction h with
  | refl s => exact hs
  | cpu _ => exact hs.withCpu _
  | read s a => exact hs.readByte a
  | store haccepted => exact hs.store haccepted
  | draw s n => exact hs.drawn n
  | time n s => exact hs.advance n
  | inputs s => exact hs.takeInputs
  | latch s b => exact hs.setSys hs.sys
  | reset s k => exact hs.raiseReset k
  | trans _ _ ih ih' => exact ih' (ih hs)

/-! Reset (R491 to R494). -/

/-- The registers after a reset are legal, whatever they were before, where the part does not come up secured. -/
theorem Sound.resetRegisters {s : State} (h : Sound s) (hnosec : bit (resetRegisters s).io.sys.config 3 = true) :
    Sound (resetRegisters s) where
  mem := h.mem
  ram := h.ram
  ext := h.ext
  ports := (Ports.legal_iff _).mpr ⟨and_and_of_disjoint (by decide) _, BitVec.zero_and, Nat.zero_le 2⟩
  timer := (Timer.legal_iff _).mpr
    ⟨BitVec.zero_and, BitVec.zero_and, BitVec.zero_and, BitVec.zero_and, BitVec.zero_and, timerPrescaler_pos _⟩
  spi := (Spi.legal_iff _).mpr ⟨BitVec.zero_and, nofun, nofun⟩
  slave := nofun
  sci := (Sci.legal_iff _ _).mpr
    ⟨and_and_of_disjoint (by decide) _, (by decide : (0xC0 : Byte) &&& 0x01 = 0),
      .inr (bit_of_and_eq_zero (m := 0x40) (and_and_of_disjoint (by decide) _))⟩
  adc := (Adc.legal_iff _).mpr (and_and_of_disjoint (by decide) _)
  sequence := nofun
  sys := by
    obtain ⟨-, -, hee, -⟩ := resetLoadsConfig s
    refine (Sys.legal_iff _ _).mpr ⟨(by decide : (0x1F : Byte) &&& 0xE0 = 0), BitVec.zero_and, .inr rfl,
      (by decide : (0x10 : Byte) &&& 0x04 = 0), BitVec.zero_and, flagBit_and_eq_zero _, ?_, hnosec, Nat.le_refl 0⟩
    by_cases hdevice : s.params.device = .mc68hc811e2
    · exact .inl hdevice
    · exact .inr (hee hdevice).2.2

/-- Settles O17: by evaluation. -/
theorem resetStateIsLegal : Obligations.ResetStateIsLegal := by
  unfold Obligations.ResetStateIsLegal
  decide

/-- Settles O18: a reset gives legal registers, and every other step is made of accesses, time and moves of the outside world
that keep them so. -/
theorem stepKeepsLegal : Obligations.StepKeepsLegal := by
  unfold Obligations.StepKeepsLegal
  intro s t hlegal ht
  obtain ⟨hrun, hsound⟩ := (legal_iff s).mp hlegal
  refine (legal_iff t).mpr ?_
  cases hreset : (takeInputs s).io.sys.pendingReset with
  | none =>
    have hstep := step_evolves hreset t ht
    exact ⟨hstep.cpu_follows.run hrun, hstep.sound hsound⟩
  | some k =>
    obtain ⟨hnosec, hstep⟩ := step_reset_evolves hreset ht
    exact ⟨hstep.cpu_follows.run rfl, hstep.sound (hsound.takeInputs.resetRegisters hnosec)⟩

end Sys2Proof.Machine
end

section
/-! PROOFS. What a recognition point takes (60_exceptions.md, R432 to R438, R451; 10_state.md, R72). -/

namespace Sys2Proof.Machine

section
variable {s : State}

theorem xirqTaken_iff : xirqTaken s = true ↔ s.pins.xirq = false ∧ s.cpu.ccr.x = false := by
  rw [xirqTaken, Bool.and_eq_true, Bool.not_eq_true', Bool.not_eq_true']

/-- XIRQ comes first, by its pin and X (R437). -/
theorem requestOf_eq_xirq_iff : requestOf s = some .xirq ↔ s.pins.xirq = false ∧ s.cpu.ccr.x = false :=
  ⟨fun h => xirqTaken_iff.mp (xirqTaken_of_requestOf h), fun h => if_pos (xirqTaken_iff.mpr h)⟩

/-- Then, where I = 0, the winner (R438). -/
theorem requestOf_eq_maskable_iff {i : IntSource} : requestOf s = some (.maskable i) ↔
    ¬ (s.pins.xirq = false ∧ s.cpu.ccr.x = false) ∧ s.cpu.ccr.i = false ∧ winner s = some i := by
  rw [← xirqTaken_iff, requestOf]
  cases xirqTaken s with
  | true => simp
  | false => cases s.cpu.ccr.i <;> simp

end

/-- RWU = 1 holds back the requests of the receiver (R72). -/
theorem sciRequest_eq (p : Sci) :
    sciRequest p = ((bit p.scsr 7 && bit p.sccr2 7) || (bit p.scsr 6 && bit p.sccr2 6) ||
      (!bit p.sccr2 1 && (((bit p.scsr 5 || bit p.scsr 3) && bit p.sccr2 5) || (bit p.scsr 4 && bit p.sccr2 4)))) := by
  rw [sciRequest, Bool.and_comm (!bit p.sccr2 1), Bool.and_or_distrib_right (bit p.scsr 5)]

/-- Settles O8: XIRQ by its pin and X, then the winner by I; each source is its request and its mask. -/
theorem requestsFollowMasks : Obligations.RequestsFollowMasks := by
  unfold Obligations.RequestsFollowMasks
  exact fun s => ⟨requestOf_eq_xirq_iff, fun i => requestOf_eq_maskable_iff, rfl, rfl, rfl, rfl, rfl, rfl, rfl, rfl, rfl, rfl,
    rfl, rfl, rfl, sciRequest_eq s.io.sci, rfl⟩

end Sys2Proof.Machine
end

section
/-! PROOFS. Which stores are refused (10_state.md, R55, R78, R82, R85; 20_memory.md, R150). -/

namespace Sys2Proof.Machine

/-- The register `r` stands at the address `a` (R88). -/
def StandsAt (s : State) (a : Word) (r : IoReg) : Prop := ∃ off < 64, a = regAddr s off ∧ registerAt off = r

/-- A register that stands at one offset alone. -/
theorem standsAt_iff {s : State} {a : Word} {r : IoReg} {k : Nat} (h : ∀ off < 64, registerAt off = r ↔ off = k)
    (hk : k < 64 := by decide) : StandsAt s a r ↔ a = regAddr s k := by
  refine ⟨fun ⟨off, hoff, ha, hr⟩ => (h off hoff).mp hr ▸ ha, fun ha => ⟨k, hk, ha, (h k hk).mpr rfl⟩⟩

section
variable {s : State} {a : Word} {v : Byte}

/-- A store is refused where it is a refused write of the register that stands there. -/
theorem storeRefusal_eq_some_iff {x : Refusal} :
    storeRefusal s a v = some x ↔ ∃ r, StandsAt s a r ∧ registerRefusal r v s = some x := by
  constructor
  · intro h
    unfold storeRefusal at h
    cases hr : resolve s a with
    | register off =>
      rw [hr] at h
      obtain ⟨hoff, ha⟩ := resolve_register_iff.mp hr
      exact ⟨registerAt off, ⟨off, hoff, ha, rfl⟩, h⟩
    | _ => rw [hr] at h; cases h
  · rintro ⟨r, ⟨off, hoff, rfl, rfl⟩, h⟩
    simp only [storeRefusal, resolve_regAddr s hoff, h]

/-- A write of EPROG sets ELAT or PGM (R78). -/
def startsEprog (s : State) (v : Byte) : Bool := bit v 5 && !bit s.io.sys.eprog 0 || bit v 0 && bit s.io.sys.eprog 5

theorem startsEprog_iff : startsEprog s v = true ↔
    bit v 5 = true ∧ bit s.io.sys.eprog 0 = false ∨ bit v 0 = true ∧ bit s.io.sys.eprog 5 = true := by
  simp only [startsEprog, Bool.or_eq_true, Bool.and_eq_true, Bool.not_eq_true']

theorem registerRefusal_eprog : registerRefusal .eprog v s =
    if s.params.device = .mc68hc711e20 then
      if startsEprog s v then some .programsNonVolatile
      else if s.smod ∧ v &&& 0x1E ≠ 0 then some .usesTestFacility else none
    else none := by
  simp only [registerRefusal, startsEprog_iff, Bool.not_eq_true]

/-- The bits of PPROG that start the programming of non-volatile memory, ELAT on the MC68HC711E9 alone (R82). -/
theorem pprog_starts_iff (d : Device) :
    v &&& pprogMask d &&& 0x23 ≠ 0 ↔ v &&& 0x03 ≠ 0 ∨ d = .mc68hc711e9 ∧ bit v 5 = true := by
  unfold pprogMask
  by_cases hd : d = .mc68hc711e9
  · rw [if_pos hd]
    revert v
    simp only [hd, true_and]
    decide
  · rw [if_neg hd]
    simp only [hd, false_and, or_false]
    rw [BitVec.and_assoc]
    rfl

theorem registerRefusal_programs_iff {r : IoReg} : registerRefusal r v s = some .programsNonVolatile ↔
    r = .pprog ∧ (v &&& 0x03 ≠ 0 ∨ s.params.device = .mc68hc711e9 ∧ bit v 5 = true) ∨
      r = .eprog ∧ s.params.device = .mc68hc711e20 ∧ startsEprog s v = true := by
  cases r
  case pprog =>
    rw [← pprog_starts_iff]
    simp [registerRefusal]
  case eprog =>
    rw [registerRefusal_eprog]
    cases startsEprog s v <;> simp
  all_goals simp [registerRefusal]

theorem registerRefusal_test_iff {r : IoReg} : registerRefusal r v s = some .usesTestFacility ↔
    s.smod = true ∧ (r = .tcntHi ∨ r = .tcntLo ∨ r = .test1 ∨
      r = .eprog ∧ s.params.device = .mc68hc711e20 ∧ v &&& 0x1E ≠ 0 ∧ ¬ startsEprog s v = true) := by
  cases r
  case eprog =>
    rw [registerRefusal_eprog]
    cases startsEprog s v <;> simp [and_left_comm]
  all_goals simp [registerRefusal]

end

/-- Settles O27: a store is refused by the register that stands at its address, each at its own offset. -/
theorem refusedStores : Obligations.RefusedStores := by
  unfold Obligations.RefusedStores
  intro s a v
  have hpprog : StandsAt s a .pprog ↔ a = regAddr s 0x3B := standsAt_iff (by decide)
  have heprog : StandsAt s a .eprog ↔ a = regAddr s 0x36 := standsAt_iff (by decide)
  have hhigh : StandsAt s a .tcntHi ↔ a = regAddr s 0x0E := standsAt_iff (by decide)
  have hlow : StandsAt s a .tcntLo ↔ a = regAddr s 0x0F := standsAt_iff (by decide)
  have htest : StandsAt s a .test1 ↔ a = regAddr s 0x3E := standsAt_iff (by decide)
  refine ⟨?programs, ?test, ?all⟩
  case programs =>
    simp only [storeRefusal_eq_some_iff, registerRefusal_programs_iff, ← startsEprog_iff, ← hpprog, ← heprog]
    constructor
    · rintro ⟨r, hr, ⟨rfl, h⟩ | ⟨rfl, h⟩⟩
      · exact .inl ⟨hr, h⟩
      · exact .inr ⟨hr, h⟩
    · rintro (⟨hr, h⟩ | ⟨hr, h⟩)
      · exact ⟨_, hr, .inl ⟨rfl, h⟩⟩
      · exact ⟨_, hr, .inr ⟨rfl, h⟩⟩
  case test =>
    simp only [storeRefusal_eq_some_iff, registerRefusal_test_iff, ← startsEprog_iff, ← heprog, ← hhigh, ← hlow, ← htest]
    constructor
    · rintro ⟨r, hr, hsmod, rfl | rfl | rfl | ⟨rfl, h⟩⟩
      · exact ⟨hsmod, .inl hr⟩
      · exact ⟨hsmod, .inr (.inl hr)⟩
      · exact ⟨hsmod, .inr (.inr (.inl hr))⟩
      · exact ⟨hsmod, .inr (.inr (.inr ⟨hr, h⟩))⟩
    · rintro ⟨hsmod, hr | hr | hr | ⟨hr, h⟩⟩
      · exact ⟨_, hr, hsmod, .inl rfl⟩
      · exact ⟨_, hr, hsmod, .inr (.inl rfl)⟩
      · exact ⟨_, hr, hsmod, .inr (.inr (.inl rfl))⟩
      · exact ⟨_, hr, hsmod, .inr (.inr (.inr ⟨rfl, h⟩))⟩
  case all =>
    cases h : storeRefusal s a v with
    | none => exact .inl rfl
    | some x => exact .inr ((storeRefusal_eq_some h).imp (congrArg some) (congrArg some))

end Sys2Proof.Machine
end

section
/-! PROOFS. The time-protected registers (70_reset_and_hazards.md, R500; 10_state.md, R63, R77, R80, R84; 60_exceptions.md, R461,
R475). -/

namespace Sys2Proof.Machine

/-- The bits of OPTION that a write reaches, by whether it is open (R80). -/
def optionMask (isOpen : Bool) : Byte := if isOpen then 0xFB else 0xC8

section
variable (isOpen : Bool) (old w : Byte)

/-- ADPU, CSEL and CME are not protected. -/
theorem option_and_0xC8 : merge (optionMask isOpen) old w &&& 0xFB &&& 0xC8 = w &&& 0xC8 := by
  rw [BitVec.and_assoc]
  exact merge_and_of_subset (by cases isOpen <;> decide) old w

/-- IRQE, DLY and CR are. -/
theorem option_and_0x33 :
    merge (optionMask isOpen) old w &&& 0xFB &&& 0x33 = (if isOpen then w else old) &&& 0x33 := by
  rw [BitVec.and_assoc]
  cases isOpen with
  | true => exact merge_and_of_subset (by decide) old w
  | false => exact merge_and_of_disjoint (by decide) old w

end

theorem ite_and (c : Prop) [Decidable c] (a b m : Byte) : (if c then a &&& m else b &&& m) = (if c then a else b) &&& m :=
  (apply_ite (· &&& m) c a b).symm

/-- Settles O52: each register by its own write, the protected bits by whether it is open. -/
theorem timeProtectedWrites : Obligations.TimeProtectedWrites := by
  unfold Obligations.TimeProtectedWrites
  intro s w g isOpen early setSys
  refine ⟨writeByte_register, ?tmsk2, ⟨writeOption w s, writeByte_register, rfl, ?anyTime, ?guarded, ?reserved⟩, ?bprot⟩
  case tmsk2 =>
    intro old pr
    have hpr : (if isOpen g.prWritten then w &&& 0x03 else old.tmsk2 &&& 0x03) = pr := ite_and _ _ _ _
    refine writeByte_register (hwrite := ?_)
    rw [← hpr]
    rfl
  case anyTime => exact option_and_0xC8 (isOpen g.optionWritten) g.option w
  case guarded => exact option_and_0x33 (isOpen g.optionWritten) g.option w
  case reserved => exact and_and_of_disjoint (by decide) _
  case bprot =>
    refine writeByte_register (hwrite := ?_)
    rw [← ite_and]
    rfl

end Sys2Proof.Machine
end

section
/-! PROOFS. The flag-clearing sequences of the SCI and the SPI (10_state.md, R91; 60_exceptions.md, R471, R473, R474). -/

namespace Sys2Proof.Machine

/-- A write of SPDR as it is seen by the flags: it clears the armed ones, and collides with a transfer in progress (R474). -/
theorem Spi.writeData_flags (p : Spi) (w : Byte) :
    (p.writeData w).armed = p.armed &&& 0x3F ∧ (p.writeData w).rx = p.rx ∧
      (p.writeData w).spsr = (p.spsr &&& ~~~(p.armed &&& 0xC0)) ||| (if p.left.isSome || p.slaveBusy then 0x40 else 0) := by
  unfold Spi.writeData
  by_cases hbusy : (p.left.isSome || p.slaveBusy) = true
  · have hbusy' : ((p.clearArmed 0xC0).left.isSome || (p.clearArmed 0xC0).slaveBusy) = true := hbusy
    simp only [if_pos hbusy, if_pos hbusy']
    exact ⟨rfl, rfl, rfl⟩
  · have hbusy' : ¬((p.clearArmed 0xC0).left.isSome || (p.clearArmed 0xC0).slaveBusy) = true := hbusy
    simp only [if_neg hbusy, if_neg hbusy']
    exact ⟨rfl, rfl, BitVec.or_zero.symm⟩

/-- Settles O54: each access is that of its register, and what it clears are the armed flags of its group. -/
theorem serialFlagClearing : Obligations.SerialFlagClearing := by
  unfold Obligations.SerialFlagClearing
  intro s w c p sci spi
  exact ⟨readByte_regAddr s (by decide), readByte_regAddr s (by decide), writeByte_register, writeByte_register,
    readByte_regAddr s (by decide), readByte_regAddr s (by decide),
    ⟨s.setSpi (p.writeData w), writeByte_register, rfl, p.writeData_flags w⟩,
    ⟨s.setSpi (p.writeControl w), writeByte_register, rfl, rfl, rfl⟩⟩

end Sys2Proof.Machine
end

section
/-! PROOFS. Time, device by device: each agent moves its own registers, and what the others do does not reach them (60_exceptions.md,
R460 to R476; 70_reset_and_hazards.md, R511). -/

namespace Sys2Proof.Machine

variable (n : Nat) (s : State)

/-! What an agent replaces. -/

theorem State.drawn_zero : s = s.drawn 0 := rfl

theorem advanceTimer_eq : ∃ t k, advanceTimer n s = (s.setTimer t).drawn k := by
  simp only [advanceTimer]
  split
  · exact ⟨_, 0, State.drawn_zero _⟩
  · exact ⟨_, 8, rfl⟩

theorem advancePulse_eq : ∃ t, advancePulse n s = s.setTimer t := by
  simp only [advancePulse]
  split <;> exact ⟨_, rfl⟩

theorem advanceSpi_eq : ∃ p, advanceSpi n s = s.setSpi p := by
  simp only [advanceSpi]
  split
  · exact ⟨_, rfl⟩
  · split <;> exact ⟨_, rfl⟩

theorem advanceSci_eq : ∃ p, advanceSci n s = s.setSci p := by
  simp only [advanceSci]
  split
  · exact ⟨_, rfl⟩
  · split <;> exact ⟨_, rfl⟩

theorem advanceStrobe_eq : ∃ p, advanceStrobe n s = s.setPorts p := by
  simp only [advanceStrobe]
  split
  · exact ⟨_, rfl⟩
  · split <;> exact ⟨_, rfl⟩

/-- The agents of the timer: its counter, the real-time interrupt and the pulse accumulator. -/
def advanceTimers : State := advancePulse n (advanceRti n (advanceTimer n s))

/-- Every agent but the COP. -/
def advanceDevices : State := advanceStrobe n (advanceSci n (advanceSpi n (advanceTimers n s)))

theorem advance_eq : advance n s = countCycles n (advanceCop n (advanceDevices n s)) := rfl

theorem advanceTimers_eq : ∃ t k, advanceTimers n s = (s.setTimer t).drawn k := by
  obtain ⟨t, k, ht⟩ := advanceTimer_eq n s
  obtain ⟨u, hu⟩ := advancePulse_eq n (advanceRti n (advanceTimer n s))
  rw [advanceTimers, hu, ht]
  exact ⟨u, k, rfl⟩

theorem advanceDevices_eq : ∃ p c q, advanceDevices n s = (((advanceTimers n s).setSpi p).setSci c).setPorts q := by
  obtain ⟨p, hp⟩ := advanceSpi_eq n (advanceTimers n s)
  obtain ⟨c, hc⟩ := advanceSci_eq n (advanceSpi n (advanceTimers n s))
  obtain ⟨q, hq⟩ := advanceStrobe_eq n (advanceSci n (advanceSpi n (advanceTimers n s)))
  exact ⟨p, c, q, by rw [advanceDevices, hq, hc, hp]⟩

theorem advanceDevices_sys : (advanceDevices n s).io.sys = s.io.sys := by
  obtain ⟨p, c, q, h⟩ := advanceDevices_eq n s
  obtain ⟨t, k, ht⟩ := advanceTimers_eq n s
  rw [h, ht]
  rfl

/-! Each device after time has passed. -/

theorem advance_timer : (advance n s).io.timer = (advanceTimers n s).io.timer := by
  obtain ⟨r, k, hcop⟩ := advanceCop_eq n (advanceDevices n s)
  obtain ⟨p, c, q, h⟩ := advanceDevices_eq n s
  rw [advance_eq, hcop, h]
  rfl

theorem advanceSpi_congr {s t : State} (hspi : t.io.spi = s.io.spi) (hmiso : t.pins.miso = s.pins.miso) :
    (advanceSpi n t).io.spi = (advanceSpi n s).io.spi := by
  simp only [advanceSpi, hspi, hmiso]
  split
  · exact hspi
  · split <;> rfl

theorem advance_spi : (advance n s).io.spi = (advanceSpi n s).io.spi := by
  obtain ⟨r, k, hcop⟩ := advanceCop_eq n (advanceDevices n s)
  obtain ⟨c, hc⟩ := advanceSci_eq n (advanceSpi n (advanceTimers n s))
  obtain ⟨q, hq⟩ := advanceStrobe_eq n (advanceSci n (advanceSpi n (advanceTimers n s)))
  obtain ⟨t, j, ht⟩ := advanceTimers_eq n s
  have hspi : (advanceSpi n (advanceTimers n s)).io.spi = (advanceSpi n s).io.spi :=
    advanceSpi_congr n (by rw [ht]; rfl) (by rw [ht]; rfl)
  rw [← hspi, advance_eq, hcop, advanceDevices, hq, hc]
  rfl

theorem advanceStrobe_congr {s t : State} (h : t.io.ports = s.io.ports) :
    (advanceStrobe n t).io.ports = (advanceStrobe n s).io.ports := by
  simp only [advanceStrobe, h]
  split
  · exact h
  · split <;> rfl

theorem advance_ports : (advance n s).io.ports = (advanceStrobe n s).io.ports := by
  obtain ⟨r, k, hcop⟩ := advanceCop_eq n (advanceDevices n s)
  obtain ⟨p, hp⟩ := advanceSpi_eq n (advanceTimers n s)
  obtain ⟨c, hc⟩ := advanceSci_eq n (advanceSpi n (advanceTimers n s))
  obtain ⟨t, j, ht⟩ := advanceTimers_eq n s
  have hports : (advanceSci n (advanceSpi n (advanceTimers n s))).io.ports = s.io.ports := by
    rw [hc, hp, ht]
    rfl
  rw [← advanceStrobe_congr n hports, advance_eq, hcop, advanceDevices]
  rfl

end Sys2Proof.Machine
end

section
/-! PROOFS. The COP watchdog (10_state.md, R93; 60_exceptions.md, R467). -/

namespace Sys2Proof.Machine

section
variable {s : State} {n : Nat}

/-- No reset is due from the COP while it is disabled or before its timeout. -/
theorem advanceCop_early (h : ¬ copEnabled s ∨ s.io.sys.copCount + n < copTimeout s.io.sys.option) :
    (advanceCop n s).io.sys.pendingReset = s.io.sys.pendingReset := by
  simp only [advanceCop, if_pos h]
  rfl

/-- One is due from the end of the tolerance on. -/
theorem advanceCop_late (henabled : copEnabled s = true)
    (h : copTimeout s.io.sys.option + 2 ^ 15 ≤ s.io.sys.copCount + n) :
    (advanceCop n s).io.sys.pendingReset.isSome = true := by
  have hearly : ¬ (¬ copEnabled s ∨ s.io.sys.copCount + n < copTimeout s.io.sys.option) :=
    not_or.mpr ⟨not_not_intro henabled, by omega⟩
  simp only [advanceCop, if_neg hearly, copTolerance, if_pos h]
  rfl

theorem copTimeout_eq (b : Byte) : copTimeout b = 2 ^ (15 + 2 * (b.toNat % 4)) := by
  rw [copTimeout, field2_zero_eq_mod]

end

/-- Settles O55: a write of COPRST is its own, and what time does to the COP is what `advanceCop` does, by its count. -/
theorem copWatchdog : Obligations.CopWatchdog := by
  unfold Obligations.CopWatchdog
  intro s w n g enabled timeout written
  have hsys : (advanceDevices n s).io.sys = g := advanceDevices_sys n s
  have henabled : copEnabled (advanceDevices n s) = enabled := by
    rw [copEnabled, State.resetsDisabled, State.smod, hsys]
  have htimeout : copTimeout (advanceDevices n s).io.sys.option = timeout := by rw [hsys, copTimeout_eq]
  have hpending : (advance n s).io.sys.pendingReset = (advanceCop n (advanceDevices n s)).io.sys.pendingReset := rfl
  refine ⟨fun hw => ?arms, fun hw harmed => ?restarts, fun hw hclear => ?unarmed, fun h55 hAA => ?other, fun h => ?disabled,
    fun h => ?early, fun h hlate => ?late, ?count⟩
  case arms => exact writeByte_register (hwrite := if_pos hw)
  case restarts =>
    have h55 : w ≠ 0x55 := by rw [hw]; decide
    exact writeByte_register (hwrite := (if_neg h55).trans (if_pos ⟨hw, harmed⟩))
  case unarmed =>
    have h55 : w ≠ 0x55 := by rw [hw]; decide
    exact writeByte_register (hwrite := (if_neg h55).trans (if_neg fun h => Bool.eq_false_iff.mp hclear h.2))
  case other => exact writeByte_register (hwrite := (if_neg h55).trans (if_neg fun h => hAA h.1))
  case disabled =>
    rw [hpending, advanceCop_early (.inl (by rw [henabled, h]; nofun)), hsys]
  case early =>
    rw [hpending, advanceCop_early (.inr (by rw [htimeout, hsys]; exact h)), hsys]
  case late =>
    rw [hpending]
    exact advanceCop_late (henabled.trans h) (by rw [htimeout, hsys]; exact hlate)
  case count =>
    obtain ⟨r, k, hcop⟩ := advanceCop_eq n (advanceDevices n s)
    rw [advance_eq, hcop, ← hsys]
    rfl

end Sys2Proof.Machine
end

section
/-! PROOFS. Edges on the inputs (10_state.md, R90; 60_exceptions.md, R451, R463, R466). -/

namespace Sys2Proof.Machine

/-! The pulse accumulator (R466). -/

/-- In event mode the selected edge counts. -/
def countsEdge (pactl : Byte) (old new : Bool) : Bool := bit pactl 6 && !bit pactl 5 && old != new && new == bit pactl 4

theorem decide_count_overflow (b : Byte) : decide (256 ≤ b.toNat + 1) = (b == 0xFF) := by
  revert b
  decide

/-- An edge on PA7 reaches PACNT, PAIF and PAOVF alone; which edge sets PAIF in gated mode is free. -/
theorem pulseEdge_timer (old new : Bool) (s : State) :
    let t := s.io.timer
    let event := countsEdge t.pactl old new
    ∃ f, (pulseEdge old new s).io.timer = { t with pacnt := t.pacnt + (if event then 1 else 0), tflg2 := f } ∧
      bit f 5 = (bit t.tflg2 5 || (event && t.pacnt == 0xFF)) ∧
      ((bit t.pactl 6 && bit t.pactl 5) = false → bit f 4 = (bit t.tflg2 4 || event)) := by
  intro t event
  have hnone (h : event = false) : t.pacnt + (if event then 1 else 0) = t.pacnt := by
    rw [h]
    exact BitVec.add_zero _
  unfold pulseEdge
  simp only
  split
  · next hoff =>
    have hevent : event = false := by
      simp only [event, countsEdge]
      rcases hoff with hoff | rfl
      · simp [t, hoff]
      · simp
    exact ⟨t.tflg2, by rw [hnone hevent], by simp [hevent], fun _ => by simp [hevent]⟩
  · next hon =>
    split
    · next hgated =>
      have hevent : event = false := by simp [event, countsEdge, t, hgated]
      refine ⟨t.tflg2 ||| flagBit 4 (Config.freeBit s.draws), by rw [hnone hevent]; rfl, ?_, fun h => ?_⟩
      · simp [hevent, bit_or, bit_flagBit]
      · simp [t, hgated] at h
        simp [h] at hon
    · next hmode =>
      split
      · next hedge =>
        rw [not_or, Bool.not_eq_false] at hon
        have hevent : event = true := by simp [event, countsEdge, t, hmode, hon, ← hedge]
        refine ⟨t.tflg2 ||| flagBit 4 true ||| flagBit 5 (256 ≤ t.pacnt.toNat + 1), ?_, ?_, fun _ => ?_⟩
        · rw [hevent]
          rfl
        · rw [decide_count_overflow]
          simp [hevent, bit_or, bit_flagBit]
        · simp [hevent, bit_or, bit_flagBit]
      · next hedge =>
        have hevent : event = false := by simp [event, countsEdge, t, hedge]
        exact ⟨t.tflg2, by rw [hnone hevent], by simp [hevent], fun _ => by simp [hevent]⟩

/-! The captures (R463). -/

/-- The flags of TFLG1 after captures: a hit sets its own (R62). -/
theorem bits_captured (flags : Byte) (ic1 ic2 ic3 ic4 : Bool) :
    let f := flags ||| flagBit 2 ic1 ||| flagBit 1 ic2 ||| flagBit 0 ic3 ||| flagBit 3 ic4
    bit f 2 = (bit flags 2 || ic1) ∧ bit f 1 = (bit flags 1 || ic2) ∧ bit f 0 = (bit flags 0 || ic3) ∧
      bit f 3 = (bit flags 3 || ic4) := by
  simp [bit_or, bit_flagBit]

/-- Settles O57: the captures and the pulse accumulator each see the change of the levels, and no input reaches the core. -/
theorem inputEdges : Obligations.InputEdges := by
  unfold Obligations.InputEdges
  refine ⟨fun s l => rfl, fun s v hrun => ?portA, fun s i => ⟨(applyInput_core s i).1, (applyInput_core s i).2.1⟩⟩
  case portA =>
    intro t u hit ic4 event
    let captured := captureEdges s.pins.portA v (s.setPins { s.pins with portA := v })
    have hu : u = (pulseEdge (bit s.pins.portA 7) (bit v 7) captured).io.timer :=
      congrArg (·.io.timer) (whenClocked_of_running (s := s.setPins { s.pins with portA := v }) hrun _)
    obtain ⟨f, htimer, hpaovf, hpaif⟩ := pulseEdge_timer (bit s.pins.portA 7) (bit v 7) captured
    have hic4 : (!oc5Enabled t && hit 6 3) = ic4 := by rw [oc5Enabled, Bool.not_not]
    obtain ⟨h1, h2, h3, h4⟩ := bits_captured t.tflg1 (hit 4 2) (hit 2 1) (hit 0 0) (!oc5Enabled t && hit 6 3)
    rw [hu, htimer]
    refine ⟨⟨rfl, rfl, rfl, ?toc5, h1, h2, h3, ?flag5⟩, rfl, hpaovf, hpaif⟩
    case toc5 =>
      rw [← hic4]
      rfl
    case flag5 =>
      rw [← hic4]
      exact h4

end Sys2Proof.Machine
end

section
/-! PROOFS. SMOD is set by a reset alone (10_state.md, R83; 70_reset_and_hazards.md, R501). -/

namespace Sys2Proof.Machine

/-- A write of HPRIO reaches HPRIO alone; no other register's write does. -/
theorem writeRegister_hprio {r : IoReg} (h : r ≠ .hprio) (v : Byte) (s : State) :
    (writeRegister r v s).io.sys.hprio = s.io.sys.hprio := by
  cases r
  case hprio => exact absurd rfl h
  case portb => simp only [writeRegister, writePortB]; split <;> rfl
  case portcl =>
    simp only [writeRegister, writePortCl]
    split
    · split <;> rfl
    · rfl
  case cforc => simp only [writeRegister, writeCforc]; split <;> rfl
  case eprog => simp only [writeRegister, writeEprog]; split <;> rfl
  case coprst =>
    simp only [writeRegister, writeCoprst]
    split
    · rfl
    · split <;> rfl
  all_goals rfl

/-- A store can clear SMOD and cannot set it. -/
theorem smod_of_store {s : State} {a : Word} {v : Byte} (h : (store s a v).smod = true) : s.smod = true := by
  unfold store at h
  split at h
  case h_1 off _ =>
    by_cases hreg : registerAt off = .hprio
    · rw [hreg] at h
      exact (Bool.and_eq_true_iff.mp ((writeHprio_smod v s).symm.trans h)).1
    · rw [State.smod, ← writeRegister_hprio hreg v s]
      exact h
  all_goals exact h

theorem Acts.smod {s t : State} (h : Acts s t) : t.smod = true → s.smod = true := by
  induction h with
  | core h =>
    obtain ⟨_, _, _, _, hhprio, _⟩ := h
    intro ht
    rw [State.smod, ← hhprio]
    exact ht
  | cpu s c => exact id
  | store _ => exact smod_of_store
  | trans _ _ ih ih' => exact fun hu => ih (ih' hu)

/-- Settles O20: where no reset is due a step is made of acts, and a write of HPRIO is the only one that reaches SMOD. -/
theorem smodIsSetOnlyByReset : Obligations.SmodIsSetOnlyByReset := by
  unfold Obligations.SmodIsSetOnlyByReset
  intro s t ht hsmod
  cases hreset : (takeInputs s).io.sys.pendingReset with
  | none => exact .inl ((step_acts hreset t ht).smod hsmod)
  | some k => exact .inr rfl

end Sys2Proof.Machine
end

section
/-! PROOFS. Transfers of the SPI and conversions of the A/D converter (10_state.md, R68, R80; 60_exceptions.md, R473 to R475). -/

namespace Sys2Proof.Machine

/-! The SPI. -/

/-- A transfer is in progress, of a master or of a slave. -/
def Spi.busy (p : Spi) : Bool := p.left.isSome || p.slaveBusy

theorem Spi.writeData_of_busy {p : Spi} (h : p.busy = true) (w : Byte) :
    p.writeData w = { p.clearArmed 0xC0 with spsr := (p.clearArmed 0xC0).spsr ||| 0x40 } := if_pos h

theorem Spi.writeData_of_idle {p : Spi} (h : p.busy = false) (w : Byte) :
    p.writeData w = { p.clearArmed 0xC0 with
      shift := w, left := if bit p.spcr 6 && bit p.spcr 4 then some (spiTransferCycles p.spcr) else none } :=
  if_neg (Bool.eq_false_iff.mp h)

/-- The master's transfer over time. -/
theorem advanceSpi_of_left {s : State} {k : Nat} (h : s.io.spi.left = some k) (n : Nat) :
    (advanceSpi n s).io.spi =
      if n < k then { s.io.spi with left := some (k - n) } else s.io.spi.receive s.pins.miso := by
  simp only [advanceSpi, h]
  split <;> rfl

section
variable (s : State) (w : Byte)

theorem spiSlaveStart_spi : (spiSlaveStart s).io.spi =
    { s.io.spi with slaveBusy := s.io.spi.slaveBusy || (bit s.io.spi.spcr 6 && !bit s.io.spi.spcr 4 && !bit s.pins.portD 5) } := by
  unfold spiSlaveStart
  simp only
  split
  · next hstarts => simp [hstarts]
  · next hstarts =>
    have hidle : (bit s.io.spi.spcr 6 && !bit s.io.spi.spcr 4 && !bit s.pins.portD 5) = false := by
      simpa [and_assoc] using hstarts
    rw [hidle, Bool.or_false]

theorem spiClocked_spi : (spiClocked w s).io.spi =
    if s.io.spi.slaveBusy && !bit s.pins.portD 5 then s.io.spi.receive w else s.io.spi := by
  simp only [spiClocked, Bool.and_eq_true, Bool.not_eq_true', Bool.not_eq_true]
  split <;> rfl

theorem spiSelected_spsr : (spiSelected s).io.spi.spsr =
    s.io.spi.spsr ||| (if bit s.io.spi.spcr 6 && bit s.io.spi.spcr 4 then 0x10 else 0) := by
  simp only [spiSelected, Bool.and_eq_true]
  split
  · rfl
  · exact BitVec.or_zero.symm

/-- SS pulled low while the clocks run: a mode fault of the enabled master (R68). -/
theorem portDLevels_spsr (hrun : s.cpu.run ≠ .stopped) : (portDLevels w s).io.spi.spsr = s.io.spi.spsr |||
    (if bit s.io.spi.spcr 6 && bit s.io.spi.spcr 4 && bit s.pins.portD 5 && !bit w 5 then 0x10 else 0) := by
  let t := s.setPins { s.pins with portD := w }
  have hselected : whenClocked spiSelected t = spiSelected t := whenClocked_of_running (s := t) hrun spiSelected
  unfold portDLevels
  simp only
  cases hold : bit s.pins.portD 5 <;> cases hnew : bit w 5
  case true.false =>
    rw [Bool.and_true, Bool.not_false, Bool.and_true, Bool.and_true, if_neg (by decide), if_pos (by decide)]
    exact (congrArg (·.io.spi.spsr) hselected).trans (spiSelected_spsr t)
  all_goals simp [spiReleased]

/-- SS released: a slave's transfer in progress ends (R473). -/
theorem portDLevels_of_rise (hold : bit s.pins.portD 5 = false) (hnew : bit w 5 = true) :
    (portDLevels w s).io.spi = { s.io.spi with slaveBusy := false } := by
  simp only [portDLevels, hold, hnew]
  rfl

end

/-! The A/D converter. -/

theorem adcResult_adc (s : State) (w : Byte) :
    (adcResult w s).io.adc = if bit s.io.sys.option 7 then s.io.adc.convert w else s.io.adc := by
  unfold adcResult
  split <;> rfl

theorem Adc.convert_of_idle {a : Adc} (h : a.next = none) (w : Byte) : a.convert w = a := by simp [Adc.convert, h]

/-- Settles O58: a write of SPDR by whether a transfer runs, time by the cycles that are left, and each input by its own rule. -/
theorem transfersAndConversions : Obligations.TransfersAndConversions := by
  unfold Obligations.TransfersAndConversions
  intro s w p time busy received a
  have htime : time = spiTransferCycles p.spcr := by
    simp only [time, spiTransferCycles, field2_zero_eq_mod] <;> rfl
  refine ⟨⟨s.setSpi (p.writeData w), writeByte_register, p.writeData_slaveBusy w, ?master, ?slave, ?collision⟩, ?time,
    fun hrun => ⟨?slaveStart, ?slaveEnd, ?modeFault⟩, portDLevels_of_rise s w, ⟨_, writeByte_register, rfl⟩, ?adc⟩
  case master =>
    intro hidle hspe hmstr
    have hwrite := Spi.writeData_of_idle (p := p) hidle w
    rw [hspe, hmstr, ← htime] at hwrite
    exact ⟨congrArg (·.left) hwrite, congrArg (·.shift) hwrite⟩
  case slave =>
    intro hidle hdisabled
    have hwrite := Spi.writeData_of_idle (p := p) hidle w
    rw [hdisabled] at hwrite
    exact ⟨congrArg (·.left) hwrite, congrArg (·.shift) hwrite⟩
  case collision =>
    intro hbusy
    have hwrite := Spi.writeData_of_busy (p := p) hbusy w
    refine ⟨congrArg (·.left) hwrite, congrArg (·.shift) hwrite, ?_⟩
    rw [State.setSpi_spi, hwrite, bit_or]
    exact Bool.or_true _
  case time =>
    intro n k hleft
    rw [advance_spi, advanceSpi_of_left hleft n]
    exact ⟨fun hn => if_pos hn, fun hn => if_neg (Nat.not_lt.mpr hn)⟩
  case slaveStart =>
    rw [applyInput, whenClocked_of_running hrun]
    exact spiSlaveStart_spi s
  case slaveEnd =>
    rw [applyInput, whenClocked_of_running hrun]
    exact spiClocked_spi s w
  case modeFault => exact portDLevels_spsr s w hrun
  case adc =>
    intro hrun u
    have hu : u = if bit s.io.sys.option 7 then a.convert w else a := by
      simp only [u, applyInput, whenClocked_of_running hrun]
      exact adcResult_adc s w
    refine ⟨fun hoff => ?off, fun hidle => ?idle, fun hon => ?on⟩
    case off => rw [hu, hoff, if_neg Bool.false_ne_true]
    case idle => rw [hu, Adc.convert_of_idle hidle, ite_self]
    case on =>
      rw [hu, if_pos hon]
      unfold Adc.convert
      exact ⟨fun h => by rw [h], fun h => by rw [h], fun h => by rw [h], fun h => by rw [h]⟩

end Sys2Proof.Machine
end

section
/-! PROOFS. Ports, and strobed and handshake input and output (10_state.md, R41 to R51, R65; 60_exceptions.md, R476). -/

namespace Sys2Proof.Machine

/-! The levels on port C (R43, R48). -/

theorem merge_0xFF (old new : Byte) : merge 0xFF old new = new := by
  apply BitVec.eq_of_getLsbD_eq
  intro k hk
  have hmask : ∀ k < 8, bit 0xFF k = true := by decide
  have hbit := bit_merge 0xFF old new hk
  rwa [hmask k hk] at hbit

/-- The levels on port C where the pins of `outputs` are outputs. -/
def portCMix (s : State) (outputs : Byte) : Byte := merge outputs s.pins.portC s.io.ports.portc

section
variable {s : State}

theorem portCLevels_of_not_output (h : outputHandshake s.io.ports.pioc = false) :
    portCLevels s = portCMix s s.io.ports.ddrc := by
  rw [portCLevels, portCOutputs, h]
  rfl

theorem portCLevels_of_active (h : outputHandshake s.io.ports.pioc = true) (hstra : straActive s = true) :
    portCLevels s = s.io.ports.portc := by
  simp only [portCLevels, portCOutputs, h, hstra, if_true]
  exact merge_0xFF _ _

/-- In full output handshake, while STRA is not active, either reading of DDRC. -/
theorem portCLevels_of_inactive (h : outputHandshake s.io.ports.pioc = true) (hstra : straActive s = false) :
    portCLevels s = portCMix s s.io.ports.ddrc ∨ portCLevels s = portCMix s (~~~s.io.ports.ddrc) := by
  simp only [portCLevels, portCOutputs, h, hstra, if_true, Bool.false_eq_true, if_false]
  split
  · exact .inr rfl
  · exact .inl rfl

theorem readPortC_of_single (h : s.mda = false) : readPortC s = (portCLevels s, s) := by
  rw [readPortC, h, if_neg Bool.false_ne_true]

end

/-! STRB and STAF (R43). -/

section
variable (p : Ports)

/-- Interlocked handshake: STRB stays active until the selected edge of STRA. -/
def Ports.interlocked : Bool := bit p.pioc 4 && !bit p.pioc 2

theorem Ports.strobe_eq : p.strobe = { p with strbActive := true, strbPulse := if p.interlocked then 0 else 2 } := by
  unfold Ports.strobe Ports.interlocked
  split <;> rfl

/-- STRB after the access that clears STAF: what PIOC says of the handshake is left alone. -/
theorem Ports.clearStaf_interlocked : p.clearStaf.interlocked = p.interlocked := by
  unfold Ports.clearStaf
  split
  · have hmask4 : bit 0x7F 4 = true := by decide
    have hmask2 : bit 0x7F 2 = true := by decide
    simp only [Ports.interlocked, bit_and, hmask4, hmask2, Bool.and_true]
  · rfl

theorem Ports.clearStaf_of_armed {p : Ports} (h : p.stafArmed = true) : p.clearStaf.pioc = p.pioc &&& 0x7F := by
  rw [Ports.clearStaf, if_pos h]

theorem Ports.strobe_pioc : p.strobe.pioc = p.pioc := by rw [Ports.strobe_eq]

end

section
variable {s : State} (w : Byte)

/-- A read of PORTCL. -/
theorem readPortCl_eq (s : State) : readPortCl s = (s.io.ports.portcl,
    if outputHandshake s.io.ports.pioc then s
    else if bit s.io.ports.pioc 4 && !s.mda then s.setPorts s.io.ports.clearStaf.strobe
    else s.setPorts s.io.ports.clearStaf) := by
  rw [readPortCl, Bool.and_comm]
  split <;> rfl

/-- The second step clears an armed STAF: a read of PORTCL but in output handshake. -/
theorem readPortCl_of_armed (hinput : outputHandshake s.io.ports.pioc = false) (harmed : s.io.ports.stafArmed = true) :
    (readPortCl s).1 = s.io.ports.portcl ∧ (readPortCl s).2.io.ports.pioc = s.io.ports.pioc &&& 0x7F := by
  rw [readPortCl_eq, hinput, if_neg Bool.false_ne_true]
  refine ⟨rfl, ?_⟩
  simp only
  split
  · exact (Ports.strobe_pioc _).trans (Ports.clearStaf_of_armed harmed)
  · exact Ports.clearStaf_of_armed harmed

/-- A write of PORTCL; `q` has the byte in the latch. -/
theorem writePortCl_eq (s : State) : writePortCl w s =
    let q := { s.io.ports with portcl := w }
    s.setPorts (if outputHandshake q.pioc then if s.mda then q.clearStaf else q.clearStaf.strobe else q) := by
  unfold writePortCl State.handshakeOn
  simp only
  cases s.mda <;> cases outputHandshake s.io.ports.pioc <;> rfl

/-- In output handshake it is a write of PORTCL. -/
theorem writePortCl_of_armed (houtput : outputHandshake s.io.ports.pioc = true) (harmed : s.io.ports.stafArmed = true) :
    (writePortCl w s).io.ports.pioc = s.io.ports.pioc &&& 0x7F := by
  have hcleared : ({ s.io.ports with portcl := w } : Ports).clearStaf.pioc = s.io.ports.pioc &&& 0x7F :=
    Ports.clearStaf_of_armed harmed
  simp only [writePortCl, houtput, if_true]
  split
  · exact (Ports.strobe_pioc _).trans hcleared
  · exact hcleared

/-- A read of PIOC that returns STAF = 1 arms it. -/
theorem readPioc_of_staf (h : bit s.io.ports.pioc 7 = true) :
    readPioc s = (s.io.ports.pioc, s.setPorts { s.io.ports with stafArmed := true }) := by
  rw [readPioc, if_pos h]

end

theorem writePortB_of_simple {s : State} (hmda : s.mda = false) (hsimple : bit s.io.ports.pioc 4 = false) (w : Byte) :
    writePortB w s = s.setPorts { s.io.ports with portb := w, strbActive := true, strbPulse := 2 } := by
  have hon : (s.handshakeOn && !bit s.io.ports.pioc 4) = true := by rw [State.handshakeOn, hmda, hsimple]; rfl
  have hlocked : ({ s.io.ports with portb := w } : Ports).interlocked = false := by rw [Ports.interlocked, hsimple, Bool.false_and]
  rw [writePortB, if_pos hon, Ports.strobe_eq, hlocked]
  rfl

theorem writePortB_of_plain {s : State} (h : (s.mda || bit s.io.ports.pioc 4) = true) (w : Byte) :
    writePortB w s = s.setPorts { s.io.ports with portb := w } := by
  have hoff : ¬(s.handshakeOn && !bit s.io.ports.pioc 4) = true := by
    rw [State.handshakeOn, ← Bool.not_or, h]
    exact Bool.false_ne_true
  rw [writePortB, if_neg hoff]

/-- The selected edge of STRA. -/
theorem straEdge_of_selected {s : State} {old new : Bool} (hmda : s.mda = false) (hchange : old ≠ new)
    (hselected : new = bit s.io.ports.pioc 1) :
    straEdge old new s = s.setPorts { s.io.ports with
      portcl := portCLevels s
      pioc := s.io.ports.pioc ||| 0x80
      strbActive := if s.io.ports.interlocked then false else s.io.ports.strbActive } :=
  if_pos ⟨congrArg (!·) hmda, hchange, hselected⟩

theorem straEdge_of_other {s : State} {old new : Bool} (h : old = new ∨ new ≠ bit s.io.ports.pioc 1) :
    straEdge old new s = s := if_neg fun ⟨_, hchange, hselected⟩ => h.elim hchange fun hother => hother hselected

/-! Ports A and D (R41, R49). -/

theorem bits_portAOutputs (t : Timer) :
    portAOutputs t &&& 0x70 = 0x70 ∧ portAOutputs t &&& 0x07 = 0 ∧ bit (portAOutputs t) 7 = bit t.pactl 7 ∧
      bit (portAOutputs t) 3 = (bit t.pactl 3 || bit t.oc1m 3 || (!bit t.pactl 2 && (bit t.tctl1 1 || bit t.tctl1 0))) := by
  unfold portAOutputs
  simp only
  generalize (bit t.pactl 3 || bit t.oc1m 3 || (!bit t.pactl 2 && (bit t.tctl1 1 || bit t.tctl1 0))) = pa3
  generalize bit t.pactl 7 = pa7
  revert pa3 pa7
  decide

/-- Without the receiver and the SPI, DDRD chooses, and an enabled transmitter. -/
theorem portDOutputs_of_off {s : State} (hre : bit s.io.sci.sccr2 2 = false) (hspe : bit s.io.spi.spcr 6 = false) :
    portDOutputs s = s.io.ports.ddrd ||| (if bit s.io.sci.sccr2 3 then 0x02 else 0) := by
  have hinputs : portDInputs s = 0 := by
    rw [portDInputs, hre, hspe, if_neg Bool.false_ne_true]
    rfl
  have hkeep : s.io.ports.ddrd &&& ~~~(0 : Byte) = s.io.ports.ddrd := BitVec.and_allOnes
  rw [portDOutputs, hinputs, hkeep]
  rfl

/-- Settles O60: an edge of STRA, the passing of time, and each access by the rule of its register. -/
theorem portsAndHandshake : Obligations.PortsAndHandshake := by
  unfold Obligations.PortsAndHandshake
  intro s w level n p ports hnds interlocked output mix cleared strobed
  have hread (off : Nat) (h : off < 64 := by decide) := readByte_regAddr s h
  have hstrobed (q : Ports) (h : q.interlocked = p.interlocked) : q.strobe = strobed q := by
    rw [Ports.strobe_eq, h]
    rfl
  have hwithStra : s.cpu.run ≠ .stopped →
      applyInput s (.straPin level) = straEdge s.pins.stra level (s.setPins { s.pins with stra := level }) := fun hrun =>
    whenClocked_of_running (s := s.setPins { s.pins with stra := level }) hrun _
  refine ⟨fun hmda hrun => ⟨fun hchange hselected => ?selected, fun hother => ?other⟩, fun hmda hsimple => ?simple,
    fun hplain => ?plain, ⟨fun hidle => ?idle, fun hn => ?runs, fun hpulse hn => ?ends⟩, hread 0x02, ?readCl, ?writeCl,
    writeByte_register, fun hinput hstaf => ?inputSequence, fun houtput hstaf => ?outputSequence,
    fun hmda => ⟨fun hinput => ?inputs, fun houtput hactive => ?active, fun houtput hinactive => ?inactive⟩, fun hmda => ?bus,
    hread 0x04, hread 0x0A, ?porta, fun hre hspe => ?portd⟩
  case selected =>
    let u := s.setPins { s.pins with stra := level }
    have hinactive : straActive u = false := by
      rw [straActive, bne_eq_false_iff_eq]
      exact hselected
    rw [hwithStra hrun, straEdge_of_selected (s := u) hmda hchange hselected]
    exact ⟨rfl, portCLevels_of_not_output (s := u), fun houtput => portCLevels_of_inactive (s := u) houtput hinactive⟩
  case other =>
    have hsame := straEdge_of_other (s := s.setPins { s.pins with stra := level }) hother
    rw [hwithStra hrun, hsame]
    rfl
  case simple => exact writeByte_register (hwrite := writePortB_of_simple hmda hsimple w)
  case plain => exact writeByte_register (hwrite := writePortB_of_plain hplain w)
  case idle => rw [advance_ports, advanceStrobe, if_pos hidle]
  case runs =>
    rw [advance_ports, advanceStrobe, if_neg (Nat.ne_of_gt (Nat.zero_lt_of_lt hn)), if_pos hn]
    rfl
  case ends =>
    rw [advance_ports, advanceStrobe, if_neg hpulse, if_neg (Nat.not_lt.mpr hn)]
    rfl
  case readCl =>
    rw [hread 0x05, ← hstrobed (cleared p) p.clearStaf_interlocked]
    exact readPortCl_eq s
  case writeCl =>
    let q := { p with portcl := w }
    have hq : q.clearStaf.strobe = strobed (cleared q) := hstrobed (cleared q) q.clearStaf_interlocked
    exact writeByte_register (hwrite := (writePortCl_eq w s).trans
      (congrArg (fun r => s.setPorts (if output then if s.mda then q.clearStaf else r else q)) hq))
  case inputSequence =>
    intro one two
    let armed := s.setPorts { p with stafArmed := true }
    have hone : one = (p.pioc, armed) := (hread 0x02).trans (readPioc_of_staf hstaf)
    have htwo : two = readPortCl armed := by
      simp only [two, hone]
      exact readByte_regAddr armed (by decide)
    rw [hone, htwo]
    exact ⟨rfl, readPortCl_of_armed (s := armed) hinput rfl⟩
  case outputSequence =>
    let armed := s.setPorts { p with stafArmed := true }
    have hone : (readByte s (regAddr s 0x02)).2 = armed := by
      rw [hread 0x02]
      exact congrArg (·.2) (readPioc_of_staf hstaf)
    rw [hone]
    exact ⟨writePortCl w armed, writeByte_register (s := armed), writePortCl_of_armed (s := armed) w houtput rfl⟩
  case inputs =>
    exact (hread 0x03).trans ((readPortC_of_single hmda).trans (congrArg (·, s) (portCLevels_of_not_output hinput)))
  case active =>
    have hstra : straActive s = true := bne_iff_ne.mpr hactive
    exact (hread 0x03).trans ((readPortC_of_single hmda).trans (congrArg (·, s) (portCLevels_of_active houtput hstra)))
  case inactive =>
    have hstra : straActive s = false := bne_eq_false_iff_eq.mpr hinactive
    have hlevels : readByte s (regAddr s 0x03) = (portCLevels s, s) := (hread 0x03).trans (readPortC_of_single hmda)
    rw [hlevels]
    exact (portCLevels_of_inactive houtput hstra).imp (congrArg (·, s)) (congrArg (·, s))
  case bus =>
    refine ⟨_, (hread 0x03).trans (if_pos hmda), ?_⟩
    exact merge_and_of_subset (BitVec.and_self) _ _
  case porta =>
    obtain ⟨h70, h07, h7, h3⟩ := bits_portAOutputs s.io.timer
    refine ⟨readPortA s, hread 0x00, merge_and_of_subset h70 _ _, merge_and_of_disjoint h07 _ _, ?_, ?_⟩
    · rw [← h7]
      exact bit_merge _ _ _ (by decide)
    · rw [← h3]
      exact bit_merge _ _ _ (by decide)
  case portd =>
    intro out
    have hout : portDOutputs s = out := portDOutputs_of_off hre hspe
    rw [hread 0x08, ← hout]
    rfl

end Sys2Proof.Machine
end

section
/-! PROOFS. The timer and its pins over time, and forced compares (10_state.md, R52 to R54, R59; 60_exceptions.md, R460 to R466). -/

namespace Sys2Proof.Machine

theorem add_ofNat_eq {width : Nat} (x : BitVec width) (k : Nat) : x + BitVec.ofNat width k = BitVec.ofNat width (x.toNat + k) := by
  rw [BitVec.ofNat_add, BitVec.ofNat_toNat, BitVec.setWidth_eq]

/-! The moments of the compares (R462). -/

theorem count_meets_iff (tcnt compare : Word) (j : Nat) :
    (tcnt + BitVec.ofNat 16 (j + 1) == compare) = true ↔ j % 65536 = (compare - tcnt - 1).toNat := by
  rw [beq_iff_eq, ← BitVec.toNat_inj]
  have htcnt : tcnt.toNat < 65536 := BitVec.isLt _
  have hone : (1 : Word).toNat = 1 := rfl
  simp only [BitVec.toNat_add, BitVec.toNat_sub, BitVec.toNat_ofNat, hone]
  omega

/-- The first of the next `k` counts at which TCNT meets a compare register. -/
theorem find_count_eq_matchWithin (tcnt compare : Word) (k : Nat) :
    ((List.range k).find? fun j => tcnt + BitVec.ofNat 16 (j + 1) == compare) = matchWithin tcnt compare k := by
  have hd : (compare - tcnt - 1).toNat < 65536 := BitVec.isLt _
  unfold matchWithin
  simp only
  split
  · next hk =>
    rw [List.find?_range_eq_some]
    refine ⟨(count_meets_iff ..).mpr (Nat.mod_eq_of_lt hd), List.mem_range.mpr hk, fun j hj => ?_⟩
    rw [Bool.not_eq_true', ← Bool.not_eq_true, count_meets_iff, Nat.mod_eq_of_lt (Nat.lt_trans hj hd)]
    exact Nat.ne_of_lt hj
  · next hk =>
    rw [List.find?_range_eq_none]
    intro j hj
    have hjd := Nat.lt_of_lt_of_le hj (Nat.not_lt.mp hk)
    rw [Bool.not_eq_true', ← Bool.not_eq_true, count_meets_iff, Nat.mod_eq_of_lt (Nat.lt_trans hjd hd)]
    exact Nat.ne_of_lt hjd

/-! The pins (R53, R54, R59). -/

theorem ocAction_eq (om ol old : Bool) : ocAction om ol old = if om then ol else if ol then !old else old := by
  cases om <;> cases ol <;> rfl

/-- OMx:OLx = 00 disconnects the pin from its own compare (R59). -/
theorem pinAfter_disconnected (old : Bool) (oc1 : Option (Nat × Bool)) (own : Option Nat) (free : Bool) :
    pinAfter old oc1 (own.map fun d => (d, false, false)) free = pinAfter old oc1 none free := by
  cases oc1 <;> cases own <;> rfl

/-- A pin after the compares that fell on it: the later acts last. -/
theorem pinAfter_follows (t : Timer) (k : Nat) (oc1 own : Option Nat) (free : Bool) :
    PinFollows t k oc1 own (pinAfter (bit t.ocPins k) (if bit t.oc1m k then oc1.map fun d => (d, bit t.oc1d k) else none)
      (own.map fun d => (d, bit t.tctl1 (2 * k - 5), bit t.tctl1 (2 * k - 6))) free) := by
  have hoc1 : (if bit t.oc1m k then oc1.map fun d => (d, bit t.oc1d k) else none) =
      (if bit t.oc1m k then oc1 else none).map fun d => (d, bit t.oc1d k) := by
    cases bit t.oc1m k <;> rfl
  rw [hoc1]
  unfold PinFollows
  generalize (if bit t.oc1m k then oc1 else none) = first, bit t.tctl1 (2 * k - 5) = om, bit t.tctl1 (2 * k - 6) = ol
  simp only
  by_cases hconnected : (om || ol) = true
  · rw [if_pos hconnected]
    cases first with
    | none => cases own with
      | none => rfl
      | some b => exact ocAction_eq om ol _
    | some a => cases own with
      | none => rfl
      | some b =>
        have hnot : ¬(!om && !ol) = true := by
          rw [← Bool.not_or, hconnected]
          exact Bool.false_ne_true
        simp only [Option.map_some, pinAfter, if_neg hnot, ← ocAction_eq]
        refine ⟨fun hlt => if_pos hlt, fun hlt => ?_, fun heq hagree => ?_⟩
        · rw [if_neg (Nat.lt_asymm hlt), if_pos hlt]
        · rw [heq, if_neg (Nat.lt_irrefl b), if_neg (Nat.lt_irrefl b), if_pos hagree]
  · rw [if_neg hconnected]
    rw [Bool.or_eq_true, not_or, Bool.not_eq_true, Bool.not_eq_true] at hconnected
    obtain ⟨rfl, rfl⟩ := hconnected
    rw [pinAfter_disconnected]
    cases first <;> rfl

/-- No compare, no change. -/
theorem pinsFollow_of_none (t : Timer) {w : OcTimes} (h : w = ⟨none, none, none, none, none⟩) :
    PinsFollow t w.oc1 w.oc2 w.oc3 w.oc4 w.oc5 t.ocPins := by
  rw [h]
  simp [PinsFollow, PinFollows]

/-- The five pins are told apart by their bits. -/
theorem bits_pins (p7 p6 p5 p4 p3 : Bool) :
    let pins := flagBit 7 p7 ||| flagBit 6 p6 ||| flagBit 5 p5 ||| flagBit 4 p4 ||| flagBit 3 p3
    bit pins 7 = p7 ∧ bit pins 6 = p6 ∧ bit pins 5 = p5 ∧ bit pins 4 = p4 ∧ bit pins 3 = p3 ∧ pins &&& 0x07 = 0 := by
  revert p7 p6 p5 p4 p3
  decide

theorem pinsFollow_of_each {t : Timer} {oc1 oc2 oc3 oc4 oc5 : Option Nat} {p7 p6 p5 p4 p3 : Bool}
    (h7 : PinFollows t 7 oc1 none p7) (h6 : PinFollows t 6 oc1 oc2 p6) (h5 : PinFollows t 5 oc1 oc3 p5)
    (h4 : PinFollows t 4 oc1 oc4 p4) (h3 : PinFollows t 3 oc1 oc5 p3) :
    PinsFollow t oc1 oc2 oc3 oc4 oc5 (flagBit 7 p7 ||| flagBit 6 p6 ||| flagBit 5 p5 ||| flagBit 4 p4 ||| flagBit 3 p3) := by
  obtain ⟨e7, e6, e5, e4, e3, -⟩ := bits_pins p7 p6 p5 p4 p3
  rw [PinsFollow, e7, e6, e5, e4, e3]
  exact ⟨h7, h6, h5, h4, h3⟩

theorem driveOcPins_follows (w : OcTimes) (s : State) :
    PinsFollow s.io.timer w.oc1 w.oc2 w.oc3 w.oc4 w.oc5 (driveOcPins w s).io.timer.ocPins :=
  have hpin := pinAfter_follows s.io.timer
  pinsFollow_of_each (hpin 7 _ none _) (hpin 6 _ w.oc2 _) (hpin 5 _ w.oc3 _) (hpin 4 _ w.oc4 _) (hpin 3 _ w.oc5 _)

/-! The timer over time. -/

/-- The counts of TCNT in the next `n` cycles. -/
def countsIn (n : Nat) (t : Timer) : Nat := (t.prescale + n) / timerPrescaler t.tmsk2

/-- The counts of PACNT in the next `n` cycles, in gated mode while PA7 is not at the inhibiting level (R466). -/
def gatedCounts (n : Nat) (s : State) : Nat :=
  let t := s.io.timer
  if bit t.pactl 6 && bit t.pactl 5 && bit s.pins.portA 7 != bit t.pactl 4 then
    (s.io.sys.cycles + n) / 64 - s.io.sys.cycles / 64
  else 0

/-- A period of the real-time interrupt ends in the next `n` cycles (R465). -/
def rtiDue (n : Nat) (s : State) : Bool :=
  s.io.sys.cycles / rtiPeriod s.io.timer.pactl < (s.io.sys.cycles + n) / rtiPeriod s.io.timer.pactl

theorem eq_none_of_matchFlags_eq_zero {w : OcTimes} (h : matchFlags w = 0) : w = ⟨none, none, none, none, none⟩ := by
  obtain ⟨e7, e6, e5, e4, e3, -⟩ := bits_pins w.oc1.isSome w.oc2.isSome w.oc3.isSome w.oc4.isSome w.oc5.isSome
  have hbit (k : Nat) : bit (matchFlags w) k = false := by
    rw [h]
    exact BitVec.getLsbD_zero
  cases w
  simp only [OcTimes.mk.injEq, ← Option.isNone_iff_eq_none, ← Option.not_isSome, Bool.not_eq_true']
  exact ⟨e7.symm.trans (hbit 7), e6.symm.trans (hbit 6), e5.symm.trans (hbit 5), e4.symm.trans (hbit 4),
    e3.symm.trans (hbit 3)⟩

/-- TCNT, its flags and the phase of the prescaler after `n` cycles (R460, R461). -/
def countedTimer (n : Nat) (t : Timer) : Timer :=
  { t with
    tcnt := tcntAfter t n
    prescale := (t.prescale + n) % timerPrescaler t.tmsk2
    tflg1 := t.tflg1 ||| matchFlags (compareMatches t (countsIn n t))
    tflg2 := t.tflg2 ||| flagBit 7 (65536 ≤ t.tcnt.toNat + countsIn n t) }

theorem countPacnt_zero (t : Timer) : countPacnt 0 t = t := by
  have hbelow : decide (256 ≤ t.pacnt.toNat + 0) = false := decide_eq_false (Nat.not_le.mpr (BitVec.isLt _))
  have hflags : t.tflg2 ||| flagBit 5 false = t.tflg2 := BitVec.or_zero
  have hcount : t.pacnt + BitVec.ofNat 8 0 = t.pacnt := BitVec.add_zero _
  rw [countPacnt, hbelow, hflags, hcount]

section
variable (n : Nat) (s : State)

/-- The counter counts, and the compares that match drive the pins. -/
theorem advanceTimer_counts : ∃ pins k,
    let w := compareMatches s.io.timer (countsIn n s.io.timer)
    PinsFollow s.io.timer w.oc1 w.oc2 w.oc3 w.oc4 w.oc5 pins ∧
      advanceTimer n s = (s.setTimer { countedTimer n s.io.timer with ocPins := pins }).drawn k := by
  let w := compareMatches s.io.timer (countsIn n s.io.timer)
  let counted := s.setTimer (countedTimer n s.io.timer)
  by_cases hquiet : matchFlags w = 0
  · exact ⟨s.io.timer.ocPins, 0, pinsFollow_of_none s.io.timer (eq_none_of_matchFlags_eq_zero hquiet), if_pos hquiet⟩
  · exact ⟨(driveOcPins w counted).io.timer.ocPins, 8, driveOcPins_follows w counted, if_neg hquiet⟩

theorem advancePulse_timer : (advancePulse n s).io.timer = countPacnt (gatedCounts n s) s.io.timer := by
  simp only [advancePulse, gatedCounts, Bool.and_eq_true, bne_iff_ne, and_assoc]
  split
  · rfl
  · exact (countPacnt_zero _).symm

/-- The timer over time: the counter, the real-time interrupt and the pulse accumulator in turn. -/
theorem advance_timer_counts : ∃ pins,
    let t := s.io.timer
    let w := compareMatches t (countsIn n t)
    PinsFollow t w.oc1 w.oc2 w.oc3 w.oc4 w.oc5 pins ∧
      (advance n s).io.timer = countPacnt (gatedCounts n s) { countedTimer n t with
        tflg2 := (countedTimer n t).tflg2 ||| flagBit 6 (rtiDue n s), ocPins := pins } := by
  obtain ⟨pins, k, hpins, hcounts⟩ := advanceTimer_counts n s
  refine ⟨pins, hpins, ?_⟩
  rw [advance_timer, advanceTimers, advancePulse_timer, hcounts]
  rfl

theorem advance_cycles : (advance n s).io.sys.cycles = s.io.sys.cycles + n := by
  obtain ⟨r, k, hcop⟩ := advanceCop_eq n (advanceDevices n s)
  rw [advance_eq, hcop, ← advanceDevices_sys n s]
  rfl

end

/-! The flags. -/

theorem bits_compareMatches (t : Timer) (k : Nat) :
    let f := matchFlags (compareMatches t k)
    bit f 7 = (matchWithin t.tcnt t.toc1 k).isSome ∧ bit f 6 = (matchWithin t.tcnt t.toc2 k).isSome ∧
      bit f 5 = (matchWithin t.tcnt t.toc3 k).isSome ∧ bit f 4 = (matchWithin t.tcnt t.toc4 k).isSome ∧
      bit f 3 = (!bit t.pactl 2 && (matchWithin t.tcnt t.ti4o5 k).isSome) ∧ f &&& 0x07 = 0 := by
  obtain ⟨e7, e6, e5, e4, e3, elow⟩ := bits_pins (matchWithin t.tcnt t.toc1 k).isSome (matchWithin t.tcnt t.toc2 k).isSome
    (matchWithin t.tcnt t.toc3 k).isSome (matchWithin t.tcnt t.toc4 k).isSome (compareMatches t k).oc5.isSome
  refine ⟨e7, e6, e5, e4, e3.trans ?_, elow⟩
  unfold compareMatches oc5Enabled
  cases bit t.pactl 2 <;> rfl

/-- TOF, RTIF and PAOVF are told apart by their bits, and PAIF is left alone. -/
theorem bits_timeFlags (f : Byte) (tof rtif paovf : Bool) :
    let g := f ||| flagBit 7 tof ||| flagBit 6 rtif ||| flagBit 5 paovf
    bit g 7 = (bit f 7 || tof) ∧ bit g 6 = (bit f 6 || rtif) ∧ bit g 5 = (bit f 5 || paovf) ∧ bit g 4 = bit f 4 ∧
      g &&& 0x0F = f &&& 0x0F := by
  refine ⟨by simp [bit_or, bit_flagBit], by simp [bit_or, bit_flagBit], by simp [bit_or, bit_flagBit],
    by simp [bit_or, bit_flagBit], ?_⟩
  have hlow {k : Nat} (on : Bool) (h : flagBit k true &&& 0x0F = 0) : flagBit k on &&& 0x0F = 0 := flagBit_and_eq_zero on h
  rw [or_and_distrib, or_and_distrib, or_and_distrib, hlow tof (by decide), hlow rtif (by decide), hlow paovf (by decide)]
  simp

/-! Forced compares (R52). -/

/-- The compares that a write of CFORC makes at once; FOC5 only while OC5 is enabled. -/
def forcedCompares (w : Byte) (t : Timer) : OcTimes :=
  let forced (k : Nat) : Option Nat := if bit w k then some 0 else none
  { oc1 := forced 7, oc2 := forced 6, oc3 := forced 5, oc4 := forced 4, oc5 := if oc5Enabled t then forced 3 else none }

theorem writeCforc_eq (w : Byte) (s : State) :
    writeCforc w s = if w &&& 0xF8 = 0 then s else driveOcPins (forcedCompares w s.io.timer) s := rfl

theorem forcedCompares_of_none {w : Byte} (h : w &&& 0xF8 = 0) (t : Timer) :
    forcedCompares w t = ⟨none, none, none, none, none⟩ := by
  have hbit {k : Nat} (hk : bit 0xF8 k = true) : bit w k = false := bit_of_and_eq_zero h hk
  simp [forcedCompares, hbit (k := 7) (by decide), hbit (k := 6) (by decide), hbit (k := 5) (by decide),
    hbit (k := 4) (by decide), hbit (k := 3) (by decide)]

/-- A write of CFORC reaches the pins alone. -/
theorem writeCforc_pins (w : Byte) (s : State) :
    ∃ pins k, writeCforc w s = (s.setTimer { s.io.timer with ocPins := pins }).drawn k := by
  rw [writeCforc_eq]
  split
  · exact ⟨_, 0, rfl⟩
  · exact ⟨_, 8, rfl⟩

theorem writeCforc_follows (w : Byte) (s : State) :
    let f := forcedCompares w s.io.timer
    PinsFollow s.io.timer f.oc1 f.oc2 f.oc3 f.oc4 f.oc5 (writeCforc w s).io.timer.ocPins := by
  rw [writeCforc_eq]
  split
  · next hnone => exact pinsFollow_of_none s.io.timer (forcedCompares_of_none hnone _)
  · exact driveOcPins_follows _ s

/-- A disabled OC5 makes no compare (R65). -/
theorem ite_oc5Enabled (t : Timer) (time : Option Nat) :
    (if oc5Enabled t then time else none) = if bit t.pactl 2 then none else time := by
  unfold oc5Enabled
  cases bit t.pactl 2 <;> rfl

/-- Settles O56: the compares over time are the matches of TCNT within the counts of these cycles, and each agent of the timer sets
its own flags. -/
theorem timeMovesTheTimer : Obligations.TimeMovesTheTimer := by
  unfold Obligations.TimeMovesTheTimer
  intro n w s t rate counts u gated moment meets oc5 forced
  obtain ⟨pins, hpins, htimer⟩ := advance_timer_counts n s
  have hrate : timerPrescaler t.tmsk2 = rate := by
    simp only [timerPrescaler, field2_zero_eq_mod, rate] <;> rfl
  have hcounts : countsIn n t = counts := by rw [countsIn, hrate]
  have hmoment (r : Word) : matchWithin t.tcnt r (countsIn n t) = moment r := by
    rw [hcounts]
    exact (find_count_eq_matchWithin t.tcnt r counts).symm
  have hu : u = _ := htimer
  obtain ⟨f7, f6, f5, f4, f3, flow⟩ := bits_compareMatches t (countsIn n t)
  obtain ⟨g7, g6, g5, g4, glow⟩ := bits_timeFlags t.tflg2 (65536 ≤ t.tcnt.toNat + countsIn n t) (rtiDue n s)
    (256 ≤ t.pacnt.toNat + gatedCounts n s)
  rw [hu]
  refine ⟨(advance_core n s).1, (advance_core n s).2.1, ?tcnt, ?prescale, rfl, ⟨?tflg1, glow⟩, fun _ => ?pins,
    ⟨writeCforc w s, writeByte_register, ?cforc, ?forced⟩, readByte_regAddr s (by decide), ?tof, ?compares, ?rti,
    ⟨add_ofNat_eq _ _, g4, g5⟩, advance_cycles n s⟩
  case tcnt => exact (add_ofNat_eq t.tcnt _).trans (by rw [← hcounts]; rfl)
  case prescale => exact congrArg ((t.prescale + n) % ·) hrate
  case tflg1 =>
    refine (or_and_distrib _ _ _).trans ?_
    rw [flow]
    exact BitVec.or_zero
  case pins =>
    simp only [← hmoment, oc5, ← ite_oc5Enabled]
    exact hpins
  case cforc =>
    obtain ⟨p, k, hwrite⟩ := writeCforc_pins w s
    rw [hwrite]
    rfl
  case forced =>
    simp only [oc5, ← ite_oc5Enabled]
    exact writeCforc_follows w s
  case tof =>
    rw [← hcounts]
    exact g7
  case compares =>
    have hflag {k : Nat} {b : Bool} (h : bit (matchFlags (compareMatches t (countsIn n t))) k = b) :
        bit (t.tflg1 ||| matchFlags (compareMatches t (countsIn n t))) k = (bit t.tflg1 k || b) := by rw [bit_or, h]
    simp only [meets, ← hmoment]
    exact ⟨hflag f7, hflag f6, hflag f5, hflag f4, hflag f3⟩
  case rti =>
    rw [← field2_zero_eq_mod]
    exact g6

end Sys2Proof.Machine
end
